-- ==== Sys2Proof/Word.lean ====
section
/-! DEFINITION. Sys2Proof/Word.lean: the bit-vector types of QREC. Registers are 32 bits, CWRAM addresses,
lengths and capacities 16 bits, counts and field elements 8 bits (00_scope R7, R8). Every field is unsigned. -/

namespace Sys2Proof

/-- A CWRAM byte, a field element, a count of blocks or a canvas dimension (R7). -/
abbrev Byte := BitVec 8

/-- A CWRAM address, a length, or a capacity in bits (R7). -/
abbrev Half := BitVec 16

/-- A register or a command word (R7, R110). -/
abbrev Word := BitVec 32

end Sys2Proof
end

