-- ==== Sys2Proof/Config.lean ====
section
/-! DEFINITION. Sys2Proof/Config.lean: what one QREC fixes (the sizing parameters of 00_scope R6, the OPEN platform
parameters of 92_eei_decisions D7 and D43) and the free values, constants without a body about which nothing can be
proved (70_reset_and_hazards R372; log entries 6 and 12). -/

namespace Sys2Proof

/-- `CW_BYTES`, the size of CWRAM in bytes (R6). -/
def Config.cwBytes : Nat := 8192

/-- `BB_MAX_BITS`, the bit capacity of the bit buffer (R6). -/
def Config.bbMaxBits : Nat := 32768

/-- `CANVAS_MAX`, the largest height and width of a canvas (R6). -/
def Config.canvasMax : Nat := 177

/-- `ID`, the identification value (R33). -/
def Config.idValue : Word := 0x51520007#32

/-- `QREC_BASE`, the platform address of the register window: OPEN (R80, D7). -/
opaque Config.qrecBase : Nat

/-- `QREC_IRQ_LINE`, the platform interrupt input that `QREC_IRQ` drives: OPEN (R330, D43). -/
opaque Config.qrecIrqLine : Nat

/-- FREE VALUE (R372, U9): the word that the `n`-th read of command-written state made while `BUSY = 1` returns.
Log entry 6. Safe: nothing constrains it. -/
opaque Config.busyRead : Nat → Word

/-- FREE VALUE: the quotient of R259 on a canvas of `h` rows and `w` columns where `h * w = 0`. It depends on no mask,
since a canvas with no data module scores the same under every mask (R262). Log entry 12, DESIGN CHOICE. Safe: nothing
constrains it. -/
opaque Config.emptyDeviation : Nat → Nat → Nat

/-- FREE VALUE: the sum of R261 that ranges over a row or a column which a canvas of `h` rows and `w` columns lacks. It
depends on no mask (R262). Log entry 12, DESIGN CHOICE. Safe: nothing constrains it. -/
opaque Config.emptySum : Nat → Nat → Nat

end Sys2Proof
end

