-- ==== Sys2Proof/Machine/State.lean ====
section
/-! DEFINITION. Sys2Proof/Machine/State.lean: the state of QREC as plain data (10_state R30 to R64), the reasons a
step can stop (60_exceptions R327), and the state after power-on reset (70_reset_and_hazards R361, R363). -/

namespace Sys2Proof.Machine

/-- `STATUS.ERRCODE`: how the last completed command ended (R321). -/
inductive ErrCode where
  | none | illegal | dataTooLong | invalidVersion | range | overlap | domain | unsupported | sequence
  | placeMismatch
deriving DecidableEq, Repr

/-- `STATUS.CVSTATE` (R63). -/
inductive CvState where
  | none | empty | placed | masked
deriving DecidableEq, Repr

/-- `CVDIM.CVCLASS`, the class of the canvas (R45). -/
inductive CvClass where
  | normal | micro | rmqr
deriving DecidableEq, Repr

/-- A module of the canvas: bit 1 FUNCTION, bit 0 DARK (R61). -/
structure Module where
  function : Bool
  dark : Bool
deriving DecidableEq, Repr

/-- `MASKSEL` and `BEST`: a mask index and its VALID bit (R50, R51). -/
structure MaskReg where
  mask : BitVec 3
  valid : Bool
deriving DecidableEq, Repr

/-- One host access to the register window: its byte offset, its width in bytes, and the word of a write (R30, R81). -/
inductive Access where
  | read (offset width : Nat)
  | write (offset width : Nat) (word : Word)
deriving DecidableEq, Repr

/-- One event of the single total order of R96. -/
inductive Event where
  /-- The host's access (R30). -/
  | host (a : Access)
  /-- The engine's step (R30). -/
  | engine
  /-- The platform asserts power-on reset (R360). -/
  | powerOn
deriving DecidableEq, Repr

/-- The state of QREC. Comments name the register (10_state R32) or the rule. -/
structure State where
  /-- STATUS.BUSY (R35): a command is in flight. -/
  busy : Bool
  /-- STATUS.DONE (R35). -/
  done : Bool
  /-- STATUS.HAZ (R35). -/
  haz : Bool
  /-- STATUS.AERR (R35). -/
  aerr : Bool
  /-- STATUS.ERRCODE (R35, R321); STATUS.ERR is `errcode ≠ none`. -/
  errcode : ErrCode
  /-- STATUS.CVSTATE (R63). -/
  cvstate : CvState
  /-- CTRL.IRQEN (R34). -/
  irqen : Bool
  /-- CMD, the last accepted command word (R36). -/
  cmd : Word
  /-- SRC (R37). -/
  src : Half
  /-- DST (R38). -/
  dst : Half
  /-- AUX (R39). -/
  aux : Half
  /-- LEN (R40). -/
  len : Half
  /-- BLK.G1 (R41). -/
  g1 : Byte
  /-- BLK.N1 (R41). -/
  n1 : Byte
  /-- BLK.G2 (R41). -/
  g2 : Byte
  /-- BLK.N2 (R41). -/
  n2 : Byte
  /-- ECK.K (R42). -/
  eck : Byte
  /-- CAP (R43). -/
  cap : Half
  /-- SYM.CLASS (R44). -/
  symClass : BitVec 2
  /-- SYM.VER (R44). -/
  symVer : BitVec 6
  /-- CVDIM.H (R45). -/
  cvH : Byte
  /-- CVDIM.W (R45). -/
  cvW : Byte
  /-- CVDIM.CVCLASS (R45). -/
  cvClass : CvClass
  /-- HALF (R46). -/
  half : Half
  /-- RESULT (R47). -/
  result : Word
  /-- GENDEG (R49). -/
  gendeg : Byte
  /-- MASKSEL (R50). -/
  masksel : MaskReg
  /-- BEST (R51). -/
  best : MaskReg
  /-- MADDR.ADDR (R52). -/
  maddr : Half
  /-- MADDR.SPACE (R52). -/
  mspace : BitVec 2
  /-- SCORE0 to SCORE7 (R54). -/
  scores : Vector Word 8
  /-- CWRAM (R58): the written bytes, by rising address; an unlisted byte is unwritten (R101). -/
  cwram : List Host.Cell
  /-- The canvas (R61): the written modules, by rising `256 * row + column`; an unlisted module is unwritten (R101). -/
  canvas : List (Nat × Module)
  /-- GEN (R59), lowest degree first. -/
  gen : Vector Byte 256
  /-- BB (R60), the first appended bit first; BBLEN is its length (R48). -/
  bb : List Bool
  /-- THE MODEL'S OWN (DESIGN CHOICE, log entry 1): the events still to come, in their total order (R96). -/
  events : List Event
  /-- THE MODEL'S OWN (DESIGN CHOICE, log entry 7): the word the host's last read returned. -/
  rdata : Word
  /-- THE MODEL'S OWN (DESIGN CHOICE, log entry 6): how many free values reads made while busy have drawn (R372). -/
  draws : Nat
deriving DecidableEq, Repr

/-- Why the machine stops with a fault (R327): a command or a host read consumes a cell that no write has set since
power-on reset. -/
inductive Fault where
  /-- Raised by `BBAPPB`, `RSENC`, `RSBLK`, `ILV`, `PLACE` and by a port read of space 0, for the CWRAM byte at the
  address. Safe: the hardware goes on with an unspecified value (R101). -/
  | unwrittenByte (address : Nat)
  /-- Raised by `PLACE`, `MASK`, `SCORE`, `SCOREALL`, `MASKBEST` and by a port read of space 1, for the module at
  the row and column. Safe: the hardware goes on with an unspecified value (R101). -/
  | unwrittenModule (row col : Nat)
deriving DecidableEq, Repr

/-- Why a step is given no meaning (R81, R327). -/
inductive Refusal where
  /-- An instruction without a meaning, by its mnemonic. No arm raises it. Safe. -/
  | notModelled (mnemonic : String)
  /-- A host access inside the window that is not an aligned 32-bit word (R81). Raised by host accesses. Safe. -/
  | notAlignedWord (offset width : Nat)
  /-- A host access outside the 256-byte window (R327). Raised by host accesses. Safe. -/
  | outsideWindow (offset : Nat)
deriving DecidableEq, Repr

/-- `GEN` holding the degree-0 generator `g_0 = 1` (R59). -/
def genReset : Vector Byte 256 := (Vector.replicate 256 0#8).set 0 1#8 (by decide)

/-- The state right after power-on reset (R361, R363). Nothing is in flight, nothing is written, and no event is
placed; `events`, `rdata` and `draws` are the model's own (log entries 1, 6, 7). -/
def State.reset : State where
  busy := false
  done := false
  haz := false
  aerr := false
  errcode := .none
  cvstate := .none
  irqen := false
  cmd := 0#32
  src := 0#16
  dst := 0#16
  aux := 0#16
  len := 0#16
  g1 := 0#8
  n1 := 0#8
  g2 := 0#8
  n2 := 0#8
  eck := 0#8
  cap := BitVec.ofNat 16 Config.bbMaxBits
  symClass := 0#2
  symVer := 0#6
  cvH := 0#8
  cvW := 0#8
  cvClass := .normal
  half := 0xFFFF#16
  result := 0#32
  gendeg := 0#8
  masksel := { mask := 0#3, valid := false }
  best := { mask := 0#3, valid := false }
  maddr := 0#16
  mspace := 0#2
  scores := Vector.replicate 8 0#32
  cwram := []
  canvas := []
  gen := genReset
  bb := []
  events := []
  rdata := 0#32
  draws := 0

end Sys2Proof.Machine
end

