-- ==== Sys2Proof/Machine/Ops.lean ====
section
/-! DEFINITION. Sys2Proof/Machine/Ops.lean: the operations the commands share. Completion with and without an error
(60_exceptions R320, R324: what QREC has in place of an exception), the sparse memories (20_memory R101), and the bit
buffer's primitives (40_bitbuffer R140, R141). -/

namespace Sys2Proof.Machine

/-! ### Completion -/

/-- `complete` (R320): the command ends without error. -/
def complete (s : State) : State :=
  { s with busy := false, done := true, errcode := .none }

/-- `raise E` (R320, R324): the command ends with error code `e` and has changed nothing but the completion fields. -/
def raiseError (e : ErrCode) (s : State) : State :=
  { s with busy := false, done := true, errcode := e }

/-- A command that goes on with what it read, or stops with the model fault of the cell that is unwritten (R101). -/
def orFault {α : Type} (x : Except Fault α) (k : α → Host.Outcome State Fault Refusal) :
    Host.Outcome State Fault Refusal :=
  match x with
  | .ok a => k a
  | .error f => .fault f

/-! ### Sparse memories: lists of (key, value) by rising key; an unlisted key has no value -/

/-- The value at key `a`, if a write has put one there; none otherwise (R101; DESIGN CHOICE, log entry 4). -/
def cellRead {α : Type} : List (Nat × α) → Nat → Option α
  | [], _ => none
  | (k, v) :: rest, a => if k = a then some v else cellRead rest a

/-- Write `v` at key `a`, keeping the keys rising. -/
def cellWrite {α : Type} : List (Nat × α) → Nat → α → List (Nat × α)
  | [], a, v => [(a, v)]
  | (k, x) :: rest, a, v =>
    if a < k then (a, v) :: (k, x) :: rest
    else if a = k then (a, v) :: rest
    else (k, x) :: cellWrite rest a v

/-- Make the keys `a .. a + n - 1` unwritten (R362). -/
def cellErase {α : Type} (m : List (Nat × α)) (a n : Nat) : List (Nat × α) :=
  m.filter (fun c => !(decide (a ≤ c.1) && decide (c.1 < a + n)))

/-- The canonical form: keys strictly rising, all below `bound`. -/
abbrev cellsWf {α : Type} (bound : Nat) (m : List (Nat × α)) : Prop :=
  m.Pairwise (fun x y => x.1 < y.1) ∧ ∀ c ∈ m, c.1 < bound

/-- The canonical form of CWRAM (R58). -/
abbrev Memory.wf (m : List Host.Cell) : Prop := cellsWf Config.cwBytes m

/-- The canonical form of the canvas: a key is `256 * row + column` with 8-bit row and column (R61, R85). -/
abbrev Canvas.wf (m : List (Nat × Module)) : Prop := cellsWf 65536 m

/-- `MemRead(a, n)` (R9): the `n` CWRAM bytes from `a`, or the fault of the first that is unwritten. -/
def readBytes (m : List Host.Cell) : Nat → Nat → Except Fault (List Byte)
  | _, 0 => .ok []
  | a, n + 1 =>
    match cellRead m a with
    | none => .error (.unwrittenByte a)
    | some b =>
      match readBytes m (a + 1) n with
      | .error f => .error f
      | .ok bs => .ok (b :: bs)

/-- `MemWrite(a, n, bytes)` (R9). -/
def writeBytes (m : List Host.Cell) : Nat → List Byte → List Host.Cell
  | _, [] => m
  | a, b :: bs => writeBytes (cellWrite m a b) (a + 1) bs

/-- The key of the module at row `r`, column `c`: the port address `{r, c}` (R85). -/
def moduleKey (r c : Nat) : Nat := 256 * r + c

/-- `CV[r][c]` (R61), or the fault of an unwritten module. -/
def readModule (m : List (Nat × Module)) (r c : Nat) : Except Fault Module :=
  match cellRead m (moduleKey r c) with
  | none => .error (.unwrittenModule r c)
  | some v => .ok v

/-- The modules at a list of coordinates, or the fault of the first that is unwritten. -/
def readModules (m : List (Nat × Module)) : List (Nat × Nat) → Except Fault (List Module)
  | [] => .ok []
  | (r, c) :: cells =>
    match readModule m r c with
    | .error f => .error f
    | .ok v =>
      match readModules m cells with
      | .error f => .error f
      | .ok vs => .ok (v :: vs)

/-- Write each module of a list at its coordinates. -/
def writeModules (m : List (Nat × Module)) : List ((Nat × Nat) × Module) → List (Nat × Module)
  | [] => m
  | ((r, c), v) :: rest => writeModules (cellWrite m (moduleKey r c) v) rest

/-- A module state as the two bits of R61. -/
def moduleBits (v : Module) : BitVec 2 := BitVec.ofBool v.function ++ BitVec.ofBool v.dark

/-- The module state of two bits (R61). -/
def moduleOfBits (b : BitVec 2) : Module := { function := b.getLsbD 1, dark := b.getLsbD 0 }

/-! ### The bit buffer -/

/-- The bits that `append_bits(value, n)` appends: the low `n` bits, most significant first (R141). -/
def bitsOf (value : Nat) : Nat → List Bool
  | 0 => []
  | n + 1 => value.testBit n :: bitsOf value n

/-- `append_bits` (R141). -/
def appendBits (bb : List Bool) (value n : Nat) : List Bool := bb ++ bitsOf value n

/-- The bits of a byte list, 8 per byte, most significant first (R83, R145). -/
def bitsOfBytes (bytes : List Byte) : List Bool := bytes.flatMap (fun b => bitsOf b.toNat 8)

/-- `bit(p)` of R140: a bit of the buffer, 0 from its end on. -/
def bbBit (bb : List Bool) (p : Nat) : Bool := bb.getD p false

/-- `bbview(i)` (R140). -/
def bbView (bb : List Bool) (i : Nat) : Byte :=
  BitVec.ofNat 8 ((List.range 8).map (fun j => (bbBit bb (8 * i + j)).toNat <<< (7 - j))).sum

/-- `nbytes(BB)` (R140). -/
def bbBytes (bb : List Bool) : Nat := (bb.length + 7) / 8

/-- `into_bytes` (R140). -/
def intoBytes (bb : List Bool) : List Byte := (List.range (bbBytes bb)).map (bbView bb)

end Sys2Proof.Machine
end

