-- ==== Sys2Proof/Machine/Operands.lean ====
section
/-! DEFINITION. Sys2Proof/Machine/Operands.lean: what commands read from the operand registers: CWRAM regions and their
checks (20_memory R90, R91), the validity of `SYM` (10_state R44), the block layout (42_reed_solomon R200) and the
canvas dimensions (43_canvas_mask R231, R232). -/

namespace Sys2Proof.Machine

/-- The region `[a, a + n)` lies in CWRAM, computed without wrap-around; an empty region always does (R90;
DEDUCED, log entry 27). -/
def inCwram (a n : Nat) : Bool := n == 0 || a + n ≤ Config.cwBytes

/-- The regions `[a, a + n)` and `[b, b + m)` share a byte (R91). -/
def overlap (a n b m : Nat) : Bool := 0 < n && 0 < m && decide (a < b + m) && decide (b < a + n)

/-- `sym_valid` (R44). -/
def symValid (s : State) : Bool :=
  (s.symClass == 0#2 && decide (1 ≤ s.symVer.toNat) && decide (s.symVer.toNat ≤ 40))
    || (s.symClass == 1#2 && decide (1 ≤ s.symVer.toNat) && decide (s.symVer.toNat ≤ 4))
    || s.symClass == 2#2

/-- `SYM.CLASS` as a canvas class; the value 3 names none (R44). -/
def classOf (c : BitVec 2) : Option CvClass :=
  if c = 0#2 then some .normal
  else if c = 1#2 then some .micro
  else if c = 2#2 then some .rmqr
  else none

/-- `term_bits(SYM)` (R146); `none` where no source gives a terminator. -/
def termBits (s : State) : Option Nat :=
  if s.symClass = 0#2 then some 4
  else if s.symClass = 1#2 then some (2 * s.symVer.toNat + 1)
  else none

/-- The height and width `CVINIT` gives the canvas, and its class; `none` is `INVALID_VERSION` (R231). -/
def canvasSize (s : State) : Option (CvClass × Nat × Nat) :=
  if !symValid s then none
  else
    match classOf s.symClass with
    | some .normal => some (.normal, 4 * s.symVer.toNat + 17, 4 * s.symVer.toNat + 17)
    | some .micro => some (.micro, 2 * s.symVer.toNat + 9, 2 * s.symVer.toNat + 9)
    | some .rmqr =>
      if 1 ≤ s.cvH.toNat ∧ s.cvH.toNat ≤ Config.canvasMax ∧ 1 ≤ s.cvW.toNat ∧ s.cvW.toNat ≤ Config.canvasMax
      then some (.rmqr, s.cvH.toNat, s.cvW.toNat) else none
    | none => none

/-- `len_b(b)` for every block `b`, in block order: group 1 first (R200). -/
def blockLens (s : State) : List Nat :=
  List.replicate s.g1.toNat s.n1.toNat ++ List.replicate s.g2.toNat s.n2.toNat

/-- `B`, the number of blocks (R200). -/
def blockCount (s : State) : Nat := s.g1.toNat + s.g2.toNat

/-- `Dtot`, the data codewords of the symbol (R200). -/
def dataTotal (s : State) : Nat := s.g1.toNat * s.n1.toNat + s.g2.toNat * s.n2.toNat

/-- `Etot`, the EC codewords of the symbol (R200). -/
def ecTotal (s : State) : Nat := blockCount s * s.eck.toNat

/-- A region cut into consecutive blocks of the given lengths (R200: block `b` starts at `off(b)`). -/
def cutBlocks {α : Type} : List Nat → List α → List (List α)
  | [], _ => []
  | n :: ns, xs => xs.take n :: cutBlocks ns (xs.drop n)

end Sys2Proof.Machine
end

