-- ==== Sys2Proof/Machine/Bch.lean ====
section
/-! DEFINITION. Sys2Proof/Machine/Bch.lean: the BCH codes, FMTENC and VERENC (44_bch_info R290 to R296). -/

namespace Sys2Proof.Machine

/-- `bitlength(v)` (R290). -/
def bitLength (v : Nat) : Nat := if v = 0 then 0 else Nat.log2 v + 1

/-- The loop of R290, at most `fuel` rounds of it; every round shortens `v`. -/
def bchLoop (g : Nat) : Nat → Nat → Nat
  | 0, v => v
  | fuel + 1, v =>
    if bitLength g - 1 < bitLength v then bchLoop g fuel (v ^^^ (g <<< (bitLength v - bitLength g)))
    else v

/-- `bchrem(v, g)` (R290). -/
def bchRem (v g : Nat) : Nat := bchLoop g (bitLength v) v

/-- `fmtword(s, C)` with `FMASK(C)` given (R291). -/
def fmtWord (seed fmask : Nat) : Nat := ((seed <<< 10) ||| bchRem (seed <<< 10) 0x537) ^^^ fmask

/-- `FMASK(C)` (R291); rMQR has none in the source (R292). -/
def formatMask (symClass : BitVec 2) : Option Nat :=
  if symClass = 0#2 then some 0x5412
  else if symClass = 1#2 then some 0x4445
  else none

/-- `FMTENC seed` (R292). -/
def execFmtenc (seed : BitVec 5) (s : State) : Host.Outcome State Fault Refusal :=
  if !symValid s then .next (raiseError .invalidVersion s)
  else
    match formatMask s.symClass with
    | none => .next (raiseError .unsupported s)
    | some fmask => .next (complete { s with result := BitVec.ofNat 32 (fmtWord seed.toNat fmask) })

/-- `verword(v)` (R294). -/
def verWord (v : Nat) : Nat := (v <<< 12) ||| bchRem (v <<< 12) 0x1F25

/-- `VERENC v` (R295). -/
def execVerenc (v : BitVec 6) (s : State) : Host.Outcome State Fault Refusal :=
  .next (complete { s with result := BitVec.ofNat 32 (verWord v.toNat) })

end Sys2Proof.Machine
end

