-- ==== Sys2Proof/Machine/BitBuffer.lean ====
section
/-! DEFINITION. Sys2Proof/Machine/BitBuffer.lean: BBCLR, BBAPP, BBAPPB, BBPAD, BBST (40_bitbuffer R142 to R151). -/

namespace Sys2Proof.Machine

/-- `BBCLR` (R142). -/
def execBbclr (s : State) : Host.Outcome State Fault Refusal :=
  .next (complete { s with bb := [] })

/-- `BBAPP n, value` (R143). A term with `n > 16` is no command and ends with `ILLEGAL` (R119, DEDUCED, log entry 19). -/
def execBbapp (n : BitVec 5) (value : BitVec 16) (s : State) : Host.Outcome State Fault Refusal :=
  if 16 < n.toNat then .next (raiseError .illegal s)
  else if s.cap.toNat < s.bb.length + n.toNat then .next (raiseError .dataTooLong s)
  else .next (complete { s with bb := appendBits s.bb value.toNat n.toNat })

/-- `BBAPPB` (R145). -/
def execBbappb (s : State) : Host.Outcome State Fault Refusal :=
  if !inCwram s.src.toNat s.len.toNat then .next (raiseError .range s)
  else if s.cap.toNat < s.bb.length + 8 * s.len.toNat then .next (raiseError .dataTooLong s)
  else
    orFault (readBytes s.cwram s.src.toNat s.len.toNat) fun bytes =>
      .next (complete { s with bb := s.bb ++ bitsOfBytes bytes })

/-- The pad bytes `EC 11 EC 11 …` from index `i` of R147 on, `n` of them (R149). -/
def padBytes : Nat → Nat → List Byte
  | _, 0 => []
  | i, n + 1 => (if i % 2 = 0 then 0xEC#8 else 0x11#8) :: padBytes (i + 1) n

/-- The padded buffer of R147, for a terminator of `term` bits and `len(BB) ≤ cap`. -/
def padTo (bb : List Bool) (cap term : Nat) : List Bool :=
  let t := min term (cap - bb.length)
  let bb1 := appendBits bb 0 t
  let z := min ((8 - bb1.length % 8) % 8) (cap - bb1.length)
  let bb2 := appendBits bb1 0 z
  let bb3 := bb2 ++ bitsOfBytes (padBytes 0 ((cap - bb2.length) / 8))
  appendBits bb3 0 (cap - bb3.length)

/-- `BBPAD` (R147). -/
def execBbpad (s : State) : Host.Outcome State Fault Refusal :=
  if !symValid s then .next (raiseError .invalidVersion s)
  else
    match termBits s with
    | none => .next (raiseError .unsupported s)
    | some term =>
      if s.cap.toNat < s.bb.length then .next (raiseError .dataTooLong s)
      else .next (complete { s with bb := padTo s.bb s.cap.toNat term })

/-- `BBST` (R150). -/
def execBbst (s : State) : Host.Outcome State Fault Refusal :=
  if !inCwram s.dst.toNat (bbBytes s.bb) then .next (raiseError .range s)
  else
    .next (complete { s with
      cwram := writeBytes s.cwram s.dst.toNat (intoBytes s.bb)
      result := BitVec.ofNat 32 (bbBytes s.bb) })

end Sys2Proof.Machine
end

