-- ==== Sys2Proof/Machine/Canvas.lean ====
section
/-! DEFINITION. Sys2Proof/Machine/Canvas.lean: CVINIT, the placement path, the bit stream, and PLACE (43_canvas_mask R230
to R244). -/

namespace Sys2Proof.Machine

/-- The module a bit is placed as: Light-data for 0, Dark-data for 1 (R84). -/
def dataModule (b : Bool) : Module := { function := false, dark := b }

/-- A canvas of `h` rows and `w` columns, every module Light-data (R231). Nothing is listed outside it (DEDUCED, log entry 10). -/
def clearCanvas (h w : Nat) : List (Nat × Module) :=
  (List.range h).flatMap (fun r => (List.range w).map (fun c => (moduleKey r c, dataModule false)))

/-- `CVINIT` (R231). -/
def execCvinit (s : State) : Host.Outcome State Fault Refusal :=
  match canvasSize s with
  | none => .next (raiseError .invalidVersion s)
  | some (cls, h, w) =>
    .next (complete { s with
      cvH := BitVec.ofNat 8 h
      cvW := BitVec.ofNat 8 w
      cvClass := cls
      canvas := clearCanvas h w
      cvstate := .empty
      masksel := { mask := 0#3, valid := false }
      best := { mask := 0#3, valid := false }
      scores := Vector.replicate 8 0#32 })

/-- `T(CVCLASS)`, the vertical timing column; rMQR has none in the source (R240, R270). -/
def timingColumn : CvClass → Option Nat
  | .normal => some 6
  | .micro => some 0
  | .rmqr => none

/-- The columns of the path, right to left, without the timing column (R242). -/
def pathColumns (w t : Nat) : List Nat := (List.range w).reverse.filter (fun c => c != t)

/-- The strips: columns two at a time; a last single column is left out, as `|C|/2` strips do (R242, DEDUCED, log entry 13). -/
def pairUp : List Nat → List (Nat × Nat)
  | right :: left :: rest => (right, left) :: pairUp rest
  | _ => []

/-- The rows of strip `i`: upward where `i` is even, downward where it is odd (R242). -/
def stripRows (h i : Nat) : List Nat := if i % 2 = 0 then (List.range h).reverse else List.range h

/-- The cells of one strip: in each row the right cell, then the left cell (R242). -/
def stripCells (rows : List Nat) (right left : Nat) : List (Nat × Nat) :=
  rows.flatMap (fun r => [(r, right), (r, left)])

/-- The strips from index `i` on, one after another (R242). -/
def strips (h : Nat) : Nat → List (Nat × Nat) → List (Nat × Nat)
  | _, [] => []
  | i, (right, left) :: rest => stripCells (stripRows h i) right left ++ strips h (i + 1) rest

/-- `path(H, W, T)` (R242). -/
def path (h w t : Nat) : List (Nat × Nat) := strips h 0 (pairUp (pathColumns w t))

/-- `F` of R243: the cells of a path that hold data modules, in order; `vs` are the modules of the cells. -/
def dataCells (cells : List (Nat × Nat)) (vs : List Module) : List (Nat × Nat) :=
  ((cells.zip vs).filter (fun x => !x.2.function)).map Prod.fst

/-- The bits of the codewords from index `i` on: 8 of each, and the 4 high bits of codeword `h` (R241). -/
def codewordBits (h : Nat) : Nat → List Byte → List Bool
  | _, [] => []
  | i, b :: bs => (bitsOf b.toNat 8).take (if i = h then 4 else 8) ++ codewordBits h (i + 1) bs

/-- `stream(a, n, h, rem)` (R241), of the codewords read. -/
def stream (h rem : Nat) (bytes : List Byte) : List Bool := codewordBits h 0 bytes ++ List.replicate rem false

/-- The length of `stream` (R241). -/
def streamLength (n h rem : Nat) : Nat := 8 * n - (if h < n then 4 else 0) + rem

/-- `PLACE rem` (R243). The counts are compared before the codewords are read (DEDUCED, log entry 5). -/
def execPlace (rem : BitVec 8) (s : State) : Host.Outcome State Fault Refusal :=
  match timingColumn s.cvClass with
  | none => .next (raiseError .unsupported s)
  | some t =>
    if s.cvstate ≠ .empty then .next (raiseError .sequence s)
    else if !inCwram s.src.toNat s.len.toNat then .next (raiseError .range s)
    else
      orFault (readModules s.canvas (path s.cvH.toNat s.cvW.toNat t)) fun vs =>
        let free := dataCells (path s.cvH.toNat s.cvW.toNat t) vs
        if free.length ≠ streamLength s.len.toNat s.half.toNat rem.toNat then
          .next (raiseError .placeMismatch s)
        else
          orFault (readBytes s.cwram s.src.toNat s.len.toNat) fun bytes =>
            let bits := stream s.half.toNat rem.toNat bytes
            .next (complete { s with
              canvas := writeModules s.canvas (free.zip (bits.map dataModule))
              cvstate := .placed
              result := BitVec.ofNat 32 bits.length })

end Sys2Proof.Machine
end

