-- ==== Sys2Proof/Machine/Field.lean ====
section
/-! DEFINITION. Sys2Proof/Machine/Field.lean: the field GF(256) and its tables, and GFMUL, GFEXP, GFLOG (41_gf_arith
R170 to R178). The read-only tables EXP and LOG (10_state R62) are the functions `gfExp` and `gfLog`. -/

namespace Sys2Proof.Machine

/-- `xtime` (R170): multiply by `x` and reduce by 0x11D. -/
def xtime (a : Byte) : Byte := if a.getLsbD 7 then (a <<< 1) ^^^ 0x1D#8 else a <<< 1

/-- `EXP[i]` (R170). -/
def gfExp : Nat → Byte
  | 0 => 1#8
  | i + 1 => xtime (gfExp i)

/-- The least `i + j` with `j ≤ fuel` whose power, `cur` being the power `i`, is `a`. -/
def gfLogFrom (a : Byte) : Nat → Nat → Byte → Option Nat
  | 0, i, cur => if cur = a then some i else none
  | fuel + 1, i, cur => if cur = a then some i else gfLogFrom a fuel (i + 1) (xtime cur)

/-- `LOG[a]`: the `i ≤ 254` with `EXP[i] = a`; 0 has none (R171). -/
def gfLog (a : Byte) : Option Nat := gfLogFrom a 254 0 1#8

/-- `a ⊗ b` (R172). -/
def gfMul (a b : Byte) : Byte :=
  match gfLog a, gfLog b with
  | some i, some j => gfExp (i + j)
  | _, _ => 0#8

/-- `a ⊕ b` (R172). -/
def gfAdd (a b : Byte) : Byte := a ^^^ b

/-- `GFMUL a, b` (R175). -/
def execGfmul (a b : Byte) (s : State) : Host.Outcome State Fault Refusal :=
  .next (complete { s with result := (gfMul a b).setWidth 32 })

/-- `GFEXP e` (R176). -/
def execGfexp (e : BitVec 9) (s : State) : Host.Outcome State Fault Refusal :=
  .next (complete { s with result := (gfExp e.toNat).setWidth 32 })

/-- `GFLOG a` (R177). -/
def execGflog (a : Byte) (s : State) : Host.Outcome State Fault Refusal :=
  match gfLog a with
  | none => .next (raiseError .domain s)
  | some i => .next (complete { s with result := BitVec.ofNat 32 i })

end Sys2Proof.Machine
end

