-- ==== Sys2Proof/Machine/ReedSolomon.lean ====
section
/-! DEFINITION. Sys2Proof/Machine/ReedSolomon.lean: generator polynomials, EC codewords, interleaving, and RSGEN, RSENC,
RSBLK, ILV (42_reed_solomon R190 to R208). -/

namespace Sys2Proof.Machine

/-- The product of a polynomial, lowest degree first, and `(x ⊕ e)`: one round of the recurrence of R192. -/
def mulRoot (c : List Byte) (e : Byte) : List Byte :=
  List.zipWith gfAdd (0#8 :: c) (c.map (fun x => gfMul x e) ++ [0#8])

/-- The coefficients of `g_k`, lowest degree first, `k + 1` of them (R192). -/
def genPoly : Nat → List Byte
  | 0 => [1#8]
  | k + 1 => mulRoot (genPoly k) (gfExp k)

/-- A list of bytes as the contents of `GEN`: zeros from its end on (R59, R195). -/
def genFile (c : List Byte) : Vector Byte 256 :=
  ⟨((c ++ List.replicate 256 0#8).take 256).toArray, by
    rw [List.size_toArray, List.length_take, List.length_append, List.length_replicate]; omega⟩

/-- `GEN` and `GENDEG` hold the generator of degree `k` (R195, R199). -/
def loadGen (k : Byte) (s : State) : State := { s with gen := genFile (genPoly k.toNat), gendeg := k }

/-- One round of the shift register of R196: `r` is the remainder, highest degree first, and `g` the coefficients
`g[k-1], …, g[0]`. -/
def rsRound (g r : List Byte) (d : Byte) : List Byte :=
  match r with
  | [] => []
  | r0 :: rest => List.zipWith gfAdd (rest ++ [0#8]) (g.map (gfMul (gfAdd d r0)))

/-- `rs_ec(data, k)` (R194) by the shift register of R196 (codeword order: PRESUMED by the spec, log entry 25). -/
def rsEc (data : List Byte) (k : Nat) : List Byte :=
  data.foldl (rsRound ((genPoly k).take k).reverse) (List.replicate k 0#8)

/-- `RSGEN k` (R195). -/
def execRsgen (k : Byte) (s : State) : Host.Outcome State Fault Refusal :=
  .next (complete (loadGen k s))

/-- The data bytes an encoding with `k` EC codewords consumes: none where `k = 0` (DEDUCED, log entry 5). -/
def readData (m : List Host.Cell) (a n k : Nat) : Except Fault (List Byte) :=
  if k = 0 then .ok [] else readBytes m a n

/-- `RSENC` (R198, R199). -/
def execRsenc (s : State) : Host.Outcome State Fault Refusal :=
  if !(inCwram s.src.toNat s.len.toNat && inCwram s.dst.toNat s.eck.toNat) then .next (raiseError .range s)
  else if overlap s.src.toNat s.len.toNat s.dst.toNat s.eck.toNat then .next (raiseError .overlap s)
  else
    orFault (readData s.cwram s.src.toNat s.len.toNat s.eck.toNat) fun data =>
      .next (complete (loadGen s.eck
        { s with cwram := writeBytes s.cwram s.dst.toNat (rsEc data s.eck.toNat) }))

/-- The EC region of R200: the EC codewords of every block, block after block (R202). -/
def ecOfBlocks (blocks : List (List Byte)) (k : Nat) : List Byte := blocks.flatMap (fun b => rsEc b k)

/-- `RSBLK` (R202, R199). -/
def execRsblk (s : State) : Host.Outcome State Fault Refusal :=
  if !(inCwram s.src.toNat (dataTotal s) && inCwram s.aux.toNat (ecTotal s)) then .next (raiseError .range s)
  else if overlap s.src.toNat (dataTotal s) s.aux.toNat (ecTotal s) then .next (raiseError .overlap s)
  else
    orFault (readData s.cwram s.src.toNat (dataTotal s) s.eck.toNat) fun data =>
      .next (complete (loadGen s.eck
        { s with
          cwram := writeBytes s.cwram s.aux.toNat
            (ecOfBlocks (cutBlocks (blockLens s) data) s.eck.toNat) }))

/-- Column `i` of a list of blocks: entry `i` of each block that has one (R205). -/
def column (blocks : List (List Byte)) (i : Nat) : List Byte := blocks.filterMap (fun b => b[i]?)

/-- The first `n` columns, one after another (R205). -/
def columns (blocks : List (List Byte)) (n : Nat) : List Byte := (List.range n).flatMap (column blocks)

/-- `interleave` (R205): the data blocks column by column, then the EC blocks. -/
def interleave (lens : List Nat) (k : Nat) (data ec : List Byte) : List Byte :=
  columns (cutBlocks lens data) (lens.foldl max 0)
    ++ columns (cutBlocks (List.replicate lens.length k) ec) k

/-- `ILV` (R206). -/
def execIlv (s : State) : Host.Outcome State Fault Refusal :=
  let total := dataTotal s + ecTotal s
  if !(inCwram s.src.toNat (dataTotal s) && inCwram s.aux.toNat (ecTotal s) && inCwram s.dst.toNat total) then
    .next (raiseError .range s)
  else if overlap s.dst.toNat total s.src.toNat (dataTotal s) || overlap s.dst.toNat total s.aux.toNat (ecTotal s) then
    .next (raiseError .overlap s)
  else
    orFault (readBytes s.cwram s.src.toNat (dataTotal s)) fun data =>
      orFault (readBytes s.cwram s.aux.toNat (ecTotal s)) fun ec =>
        .next (complete { s with
          cwram := writeBytes s.cwram s.dst.toNat (interleave (blockLens s) s.eck.toNat data ec)
          result := BitVec.ofNat 32 total })

end Sys2Proof.Machine
end

