-- ==== Sys2Proof/Machine/Masking.lean ====
section
/-! DEFINITION. Sys2Proof/Machine/Masking.lean: the mask predicates and MASK (43_canvas_mask R250 to R252). -/

namespace Sys2Proof.Machine

/-- `pred_i(r, c)` (R250); indices above 7 do not occur. -/
def pred (i r c : Nat) : Bool :=
  match i with
  | 0 => (r + c) % 2 == 0
  | 1 => r % 2 == 0
  | 2 => c % 3 == 0
  | 3 => (r + c) % 3 == 0
  | 4 => (r / 2 + c / 3) % 2 == 0
  | 5 => (r * c) % 2 + (r * c) % 3 == 0
  | 6 => ((r * c) % 2 + (r * c) % 3) % 2 == 0
  | 7 => ((r + c) % 2 + (r * c) % 3) % 2 == 0
  | _ => false

/-- The Normal index of Micro mask `m`; only 0 to 3 occur (R252). -/
def microIndex : Nat → Nat
  | 0 => 1
  | 1 => 4
  | 2 => 6
  | 3 => 7
  | m => m

/-- `maskpred(CVCLASS, m)` for a Normal or a Micro canvas (R252). -/
def maskPred (micro : Bool) (m r c : Nat) : Bool := pred (if micro then microIndex m else m) r c

/-- The canvas is Micro (R45). -/
def isMicro (s : State) : Bool := s.cvClass == .micro

/-- The first error of the checks that MASK, SCORE, SCOREALL and MASKBEST share (R251, R262, R264, R267). -/
def maskStateError (s : State) : Option ErrCode :=
  if s.cvClass = .rmqr then some .unsupported
  else if s.cvstate = .empty ∨ s.cvstate = .placed then none
  else some .sequence

/-- The first error of the checks of MASK and SCORE with index `m` (R251, R262). -/
def maskIndexError (m : BitVec 3) (s : State) : Option ErrCode :=
  match maskStateError s with
  | some e => some e
  | none => if isMicro s && decide (3 < m.toNat) then some .range else none

/-- The cells of an `h × w` canvas, row by row. -/
def allCells (h w : Nat) : List (Nat × Nat) :=
  (List.range h).flatMap (fun r => (List.range w).map (fun c => (r, c)))

/-- The cells of the canvas where mask `m` toggles a data module (R251). -/
def maskCells (micro : Bool) (m h w : Nat) : List (Nat × Nat) :=
  (allCells h w).filter (fun x => maskPred micro m x.1 x.2)

/-- The data modules among the modules `vs` of `cells`, each with its colour toggled (R251). -/
def toggled (cells : List (Nat × Nat)) (vs : List Module) : List ((Nat × Nat) × Module) :=
  ((cells.zip vs).filter (fun x => !x.2.function)).map (fun x => (x.1, { x.2 with dark := !x.2.dark }))

/-- The canvas with mask `m` applied to its data modules (R251), or the fault of a module it consumes. -/
def maskedCanvas (m : Nat) (s : State) : Except Fault (List (Nat × Module)) :=
  match readModules s.canvas (maskCells (isMicro s) m s.cvH.toNat s.cvW.toNat) with
  | .error f => .error f
  | .ok vs => .ok (writeModules s.canvas (toggled (maskCells (isMicro s) m s.cvH.toNat s.cvW.toNat) vs))

/-- `MASK m` (R251). -/
def execMask (m : BitVec 3) (s : State) : Host.Outcome State Fault Refusal :=
  match maskIndexError m s with
  | some e => .next (raiseError e s)
  | none =>
    orFault (maskedCanvas m.toNat s) fun canvas =>
      .next (complete { s with
        canvas := canvas
        masksel := { mask := m, valid := true }
        cvstate := .masked })

end Sys2Proof.Machine
end

