-- ==== Sys2Proof/Machine/Scoring.lean ====
section
/-! DEFINITION. Sys2Proof/Machine/Scoring.lean: the penalty rules, the Micro score, the selection, and SCORE, SCOREALL,
MASKBEST (43_canvas_mask R255 to R268). -/

namespace Sys2Proof.Machine

/-- `col_m` of R255 for one module: its colour as if mask `m` had been applied; true is dark. -/
def maskedColour (micro : Bool) (m r c : Nat) (v : Module) : Bool :=
  v.dark ^^ (!v.function && maskPred micro m r c)

/-- The rows of an `h × w` canvas, from row `r` on, `n` of them. -/
def readRows (canvas : List (Nat × Module)) (w : Nat) : Nat → Nat → Except Fault (List (List Module))
  | _, 0 => .ok []
  | r, n + 1 =>
    match readModules canvas ((List.range w).map (fun c => (r, c))) with
    | .error f => .error f
    | .ok row =>
      match readRows canvas w (r + 1) n with
      | .error f => .error f
      | .ok rows => .ok (row :: rows)

/-- `col_m` over the whole canvas, row by row (R255). -/
def colourGrid (m : Nat) (grid : List (List Module)) : List (List Bool) :=
  grid.zipIdx.map (fun x => x.1.zipIdx.map (fun y => maskedColour false m x.2 y.2 y.1))

/-- The columns of a grid of `w` columns, each from top to bottom (R256). -/
def gridColumns (w : Nat) (rows : List (List Bool)) : List (List Bool) :=
  (List.range w).map (fun c => rows.map (fun row => row.getD c false))

/-- The lengths of the maximal runs of a line that goes on after `n` modules of colour `c` (R256). -/
def runsFrom (c : Bool) (n : Nat) : List Bool → List Nat
  | [] => [n]
  | x :: xs => if x = c then runsFrom c (n + 1) xs else n :: runsFrom x 1 xs

/-- The lengths of the maximal runs of a line (R256). -/
def runs : List Bool → List Nat
  | [] => []
  | x :: xs => runsFrom x 1 xs

/-- What a line contributes to P1: `3 + (L - 5)` for each maximal run of length `L ≥ 5` (R256). -/
def runPenalty (line : List Bool) : Nat :=
  ((runs line).map (fun n => if 5 ≤ n then 3 + (n - 5) else 0)).sum

/-- P1 (R256). -/
def penalty1 (lines : List (List Bool)) : Nat := (lines.map runPenalty).sum

/-- The 2 × 2 windows of one colour between two adjacent rows (R257). -/
def blocksBetween : List Bool → List Bool → Nat
  | a :: a' :: as, b :: b' :: bs =>
    (if a = b ∧ a = a' ∧ a = b' then 1 else 0) + blocksBetween (a' :: as) (b' :: bs)
  | _, _ => 0

/-- The 2 × 2 windows of one colour of a grid (R257). -/
def blockCount2 : List (List Bool) → Nat
  | row :: row' :: rows => blocksBetween row row' + blockCount2 (row' :: rows)
  | _ => 0

/-- P2 (R257). -/
def penalty2 (rows : List (List Bool)) : Nat := 3 * blockCount2 rows

/-- `PA` of R258: `10111010000`. -/
def finderA : List Bool := [true, false, true, true, true, false, true, false, false, false, false]

/-- `PB` of R258: `00001011101`. -/
def finderB : List Bool := [false, false, false, false, true, false, true, true, true, false, true]

/-- The windows of 11 modules of a line that equal `PA` or `PB` (R258). -/
def finderCount : List Bool → Nat
  | [] => 0
  | x :: xs =>
    (if (x :: xs).take 11 = finderA ∨ (x :: xs).take 11 = finderB then 1 else 0) + finderCount xs

/-- P3 (R258). -/
def penalty3 (lines : List (List Bool)) : Nat := 40 * (lines.map finderCount).sum

/-- P4 for `dark` dark modules on an `h × w` canvas (R259). Where R259 divides by 0 the quotient is a free value, the
same for every mask (R262) and within `P4 ≤ 100` of R268 (DESIGN CHOICE, log entry 12). -/
def penalty4 (h w dark : Nat) : Nat :=
  if h * w = 0 then 10 * (Config.emptyDeviation h w % 11)
  else 10 * ((20 * (dark : Int) - 10 * ((h * w : Nat) : Int)).natAbs / (h * w))

/-- `Dk` of R259. -/
def darkCount (rows : List (List Bool)) : Nat := (rows.map (fun row => row.count true)).sum

/-- The lines of a grid: its rows, then its columns (R256). -/
def gridLines (w : Nat) (rows : List (List Bool)) : List (List Bool) := rows ++ gridColumns w rows

/-- `penalty(m)` (R260) of an `h × w` colour grid. -/
def penalty (h w : Nat) (rows : List (List Bool)) : Nat :=
  penalty1 (gridLines w rows) + penalty2 rows + penalty3 (gridLines w rows) + penalty4 h w (darkCount rows)

/-- The score of candidate `m` on a Normal canvas (R260). -/
def normalScore (h w : Nat) (grid : List (List Module)) (m : Nat) : Word :=
  BitVec.ofNat 32 (penalty h w (colourGrid m grid))

/-- The cells that `sum1` of R261 counts: the rightmost column without its top row. -/
def sum1Cells (h w : Nat) : List (Nat × Nat) := (List.range (h - 1)).map (fun i => (i + 1, w - 1))

/-- The cells that `sum2` of R261 counts: the bottom row without its leftmost column. -/
def sum2Cells (h w : Nat) : List (Nat × Nat) := (List.range (w - 1)).map (fun i => (h - 1, i + 1))

/-- The dark modules among `vs`, the modules of `cells`, under Micro mask `m` (R255, R261). -/
def darkAt (m : Nat) (cells : List (Nat × Nat)) (vs : List Module) : Nat :=
  (cells.zip vs).countP (fun x => maskedColour true m x.1.1 x.1.2 x.2)

/-- The dark modules of `cells` under Micro mask `m` (R255, R261), or the fault of one that is unwritten. -/
def darkSum (canvas : List (Nat × Module)) (m : Nat) (cells : List (Nat × Nat)) : Except Fault Nat :=
  match readModules canvas cells with
  | .error f => .error f
  | .ok vs => .ok (darkAt m cells vs)

/-- `sum1` (R261). Where the canvas has no rightmost column, the sum is a free value, the same for every mask (R262) and
at most its `h - 1` terms (DESIGN CHOICE, log entry 12). -/
def microSum1 (canvas : List (Nat × Module)) (h w m : Nat) : Except Fault Nat :=
  if w = 0 ∧ 2 ≤ h then .ok (Config.emptySum h w % h) else darkSum canvas m (sum1Cells h w)

/-- `sum2` (R261). Where the canvas has no bottom row, the sum is a free value, the same for every mask (R262) and at most
its `w - 1` terms (DESIGN CHOICE, log entry 12). -/
def microSum2 (canvas : List (Nat × Module)) (h w m : Nat) : Except Fault Nat :=
  if h = 0 ∧ 2 ≤ w then .ok (Config.emptySum h w % w) else darkSum canvas m (sum2Cells h w)

/-- `micro(m)` (R261). -/
def microScore (canvas : List (Nat × Module)) (h w m : Nat) : Except Fault Word :=
  match microSum1 canvas h w m with
  | .error f => .error f
  | .ok sum1 =>
    match microSum2 canvas h w m with
    | .error f => .error f
    | .ok sum2 => .ok (BitVec.ofNat 32 (sum1 + 16 * sum2))

/-- The scores of a list of candidates on a Micro canvas (R261). -/
def microScores (canvas : List (Nat × Module)) (h w : Nat) : List Nat → Except Fault (List Word)
  | [] => .ok []
  | m :: ms =>
    match microScore canvas h w m with
    | .error f => .error f
    | .ok v =>
      match microScores canvas h w ms with
      | .error f => .error f
      | .ok vs => .ok (v :: vs)

/-- The scores of a list of candidates on the canvas, Normal or Micro (R260, R261). -/
def candidateScores (ms : List Nat) (s : State) : Except Fault (List Word) :=
  if isMicro s then microScores s.canvas s.cvH.toNat s.cvW.toNat ms
  else
    match readRows s.canvas s.cvW.toNat 0 s.cvH.toNat with
    | .error f => .error f
    | .ok grid => .ok (ms.map (normalScore s.cvH.toNat s.cvW.toNat grid))

/-- The candidate set (R263). -/
def candidates (micro : Bool) : List Nat := List.range (if micro then 4 else 8)

/-- `select` (R266): the least index whose score is the minimum (Normal) or the maximum (Micro). -/
def selectBest (micro : Bool) (scores : List Word) : Nat :=
  scores.findIdx (fun x => scores.all (fun y => if micro then y ≤ x else x ≤ y))

/-- The score registers with the first `l.length` of them set to `l` (R54). -/
def setScores (old : Vector Word 8) (l : List Word) : Vector Word 8 :=
  Vector.ofFn (fun i : Fin 8 => l.getD i.val old[i])

/-- The register writes of SCOREALL: the scores, `BEST`, `RESULT` (R264). -/
def recordBest (l : List Word) (s : State) : State :=
  { s with
    scores := setScores s.scores l
    best := { mask := BitVec.ofNat 3 (selectBest (isMicro s) l), valid := true }
    result := BitVec.ofNat 32 (selectBest (isMicro s) l) }

/-- `SCORE m` (R262). -/
def execScore (m : BitVec 3) (s : State) : Host.Outcome State Fault Refusal :=
  match maskIndexError m s with
  | some e => .next (raiseError e s)
  | none =>
    orFault (candidateScores [m.toNat] s) fun l =>
      .next (complete { s with
        scores := s.scores.set m.toNat (l.headD 0#32) m.isLt
        result := l.headD 0#32 })

/-- `SCOREALL` (R264). -/
def execScoreall (s : State) : Host.Outcome State Fault Refusal :=
  match maskStateError s with
  | some e => .next (raiseError e s)
  | none =>
    orFault (candidateScores (candidates (isMicro s)) s) fun l =>
      .next (complete (recordBest l s))

/-- `MASKBEST` (R267): the scores are taken on the unmasked canvas, then the selected mask is applied. -/
def execMaskbest (s : State) : Host.Outcome State Fault Refusal :=
  match maskStateError s with
  | some e => .next (raiseError e s)
  | none =>
    orFault (candidateScores (candidates (isMicro s)) s) fun l =>
      orFault (maskedCanvas (selectBest (isMicro s) l) s) fun canvas =>
        .next (complete { recordBest l s with
          canvas := canvas
          masksel := { mask := BitVec.ofNat 3 (selectBest (isMicro s) l), valid := true }
          cvstate := .masked })

end Sys2Proof.Machine
end

