-- ==== Sys2Proof/Syntax.lean ====
section
/-! DEFINITION. Sys2Proof/Syntax.lean: the commands of QREC (30_encoding R118, spec/opcode_table.json), their formats
(R111) and the ways a word fails to decode (R119). -/

namespace Sys2Proof

/-- The 21 mnemonics of R118. -/
inductive Mnemonic where
  | nop | bbclr | bbapp | bbappb | bbpad | bbst
  | gfmul | gfexp | gflog
  | rsgen | rsenc | rsblk | ilv
  | cvinit | place | mask | score | scoreall | maskbest
  | fmtenc | verenc
deriving DecidableEq, Repr

/-- The eight layouts of bits [23:0] (R111). -/
inductive Format where
  | f0 | fa | fb | fe | f8 | f6 | f5 | f3
deriving DecidableEq, Repr

/-- A decoded command with its immediate operands (R112 to R116); every other operand is a register (R117). -/
inductive Instr where
  | nop
  | bbclr
  | bbapp (n : BitVec 5) (value : BitVec 16)
  | bbappb
  | bbpad
  | bbst
  | gfmul (a b : BitVec 8)
  | gfexp (e : BitVec 9)
  | gflog (a : BitVec 8)
  | rsgen (k : BitVec 8)
  | rsenc
  | rsblk
  | ilv
  | cvinit
  | place (rem : BitVec 8)
  | mask (m : BitVec 3)
  | score (m : BitVec 3)
  | scoreall
  | maskbest
  | fmtenc (seed : BitVec 5)
  | verenc (v : BitVec 6)
deriving DecidableEq, Repr

/-- Why a word is `ILLEGAL` (R119). -/
inductive DecodeError where
  /-- `w[31:24]` is no opcode of R118. -/
  | unknownOpcode
  /-- A bit marked 0 in R111 is set. -/
  | reservedBits
  /-- `BBAPP` with `N > 16`. -/
  | appendCount
deriving DecidableEq, Repr

end Sys2Proof
end

