-- ==== Sys2Proof/Machine/Dispatch.lean ====
section
/-! DEFINITION. Sys2Proof/Machine/Dispatch.lean: the meaning of each command, one arm each (30_encoding R118). -/

namespace Sys2Proof.Machine

/-- What the engine step does with a decoded command: the execute and complete phases of R320. -/
def exec (i : Instr) (s : State) : Host.Outcome State Fault Refusal :=
  match i with
  | .nop => Sys2Proof.Machine.execNop s
  | .bbclr => Sys2Proof.Machine.execBbclr s
  | .bbapp n value => Sys2Proof.Machine.execBbapp n value s
  | .bbappb => Sys2Proof.Machine.execBbappb s
  | .bbpad => Sys2Proof.Machine.execBbpad s
  | .bbst => Sys2Proof.Machine.execBbst s
  | .gfmul a b => Sys2Proof.Machine.execGfmul a b s
  | .gfexp e => Sys2Proof.Machine.execGfexp e s
  | .gflog a => Sys2Proof.Machine.execGflog a s
  | .rsgen k => Sys2Proof.Machine.execRsgen k s
  | .rsenc => Sys2Proof.Machine.execRsenc s
  | .rsblk => Sys2Proof.Machine.execRsblk s
  | .ilv => Sys2Proof.Machine.execIlv s
  | .cvinit => Sys2Proof.Machine.execCvinit s
  | .place rem => Sys2Proof.Machine.execPlace rem s
  | .mask m => Sys2Proof.Machine.execMask m s
  | .score m => Sys2Proof.Machine.execScore m s
  | .scoreall => Sys2Proof.Machine.execScoreall s
  | .maskbest => Sys2Proof.Machine.execMaskbest s
  | .fmtenc seed => Sys2Proof.Machine.execFmtenc seed s
  | .verenc v => Sys2Proof.Machine.execVerenc v s

end Sys2Proof.Machine
end

