-- ==== Sys2Proof/Machine/Flags.lean ====
section
/-! DEFINITION. Sys2Proof/Machine/Flags.lean: `STATUS`, its codes, and the interrupt line (10_state R35, 60_exceptions
R321, R330). -/

namespace Sys2Proof.Machine

/-- The code of an error (R321). -/
def errBits : ErrCode → BitVec 4
  | .none => 0#4
  | .illegal => 1#4
  | .dataTooLong => 2#4
  | .invalidVersion => 3#4
  | .range => 4#4
  | .overlap => 5#4
  | .domain => 6#4
  | .unsupported => 7#4
  | .sequence => 8#4
  | .placeMismatch => 9#4

/-- The value of `CVSTATE` (R63). -/
def cvStateBits : CvState → BitVec 2
  | .none => 0#2
  | .empty => 1#2
  | .placed => 2#2
  | .masked => 3#2

/-- The value of `CVCLASS` (R45). -/
def cvClassBits : CvClass → BitVec 2
  | .normal => 0#2
  | .micro => 1#2
  | .rmqr => 2#2

/-- `STATUS.ERR` is 1 exactly when `ERRCODE ≠ 0` (R35). -/
def errFlag (s : State) : Bool := errBits s.errcode != 0#4

/-- `STATUS` as the host reads it (R32, R35). -/
def statusWord (s : State) : Word :=
  0#18 ++ cvStateBits s.cvstate ++ errBits s.errcode ++ 0#3 ++ BitVec.ofBool s.aerr ++ BitVec.ofBool s.haz
    ++ BitVec.ofBool (errFlag s) ++ BitVec.ofBool s.done ++ BitVec.ofBool s.busy

/-- A write to `STATUS`: only `DONE`, `HAZ` and `AERR`, and only where the written bit is 1 (R35). -/
def writeStatus (w : Word) (s : State) : State :=
  { s with done := s.done && !w.getLsbD 1, haz := s.haz && !w.getLsbD 3, aerr := s.aerr && !w.getLsbD 4 }

/-- The interrupt output `QREC_IRQ = STATUS.DONE & CTRL.IRQEN` (R330). -/
def irq (s : State) : Bool := s.done && s.irqen

end Sys2Proof.Machine
end

