-- ==== Sys2Proof/WellFormed.lean ====
section
/-! DEFINITION. Sys2Proof/WellFormed.lean: which terms of `Instr` are commands. The operand widths are in the types;
one check is left, the bit count of `BBAPP` (30_encoding R113, R119). -/

namespace Sys2Proof

/-- The operand ranges that the field widths do not already impose: `N` of `BBAPP` is at most 16 (R113). -/
def Instr.wf : Instr → Bool
  | .bbapp n _ => n.toNat ≤ 16
  | .nop | .bbclr | .bbappb | .bbpad | .bbst => true
  | .gfmul _ _ | .gfexp _ | .gflog _ => true
  | .rsgen _ | .rsenc | .rsblk | .ilv => true
  | .cvinit | .place _ | .mask _ | .score _ | .scoreall | .maskbest => true
  | .fmtenc _ | .verenc _ => true

end Sys2Proof
end

