-- ==== Sys2Proof/Decode.lean ====
section
/-! DEFINITION. Sys2Proof/Decode.lean: the opcode map, the total decoder, the encoder and the assembler's operand
check (30_encoding R110 to R122). -/

namespace Sys2Proof

/-- Every mnemonic, in the order of R118. -/
def allMnemonics : List Mnemonic :=
  [.nop, .bbclr, .bbapp, .bbappb, .bbpad, .bbst, .gfmul, .gfexp, .gflog, .rsgen, .rsenc, .rsblk, .ilv,
   .cvinit, .place, .mask, .score, .scoreall, .maskbest, .fmtenc, .verenc]

/-- The opcode `OPC` of each command (R118). -/
def opcodeOf : Mnemonic → BitVec 8
  | .nop => 0x00#8
  | .bbclr => 0x01#8
  | .bbapp => 0x02#8
  | .bbappb => 0x03#8
  | .bbpad => 0x04#8
  | .bbst => 0x05#8
  | .gfmul => 0x10#8
  | .gfexp => 0x11#8
  | .gflog => 0x12#8
  | .rsgen => 0x20#8
  | .rsenc => 0x21#8
  | .rsblk => 0x22#8
  | .ilv => 0x23#8
  | .cvinit => 0x30#8
  | .place => 0x31#8
  | .mask => 0x32#8
  | .score => 0x33#8
  | .scoreall => 0x34#8
  | .maskbest => 0x35#8
  | .fmtenc => 0x40#8
  | .verenc => 0x41#8

/-- The format of each command (R118). -/
def formatOf : Mnemonic → Format
  | .nop | .bbclr | .bbappb | .bbpad | .bbst => .f0
  | .rsenc | .rsblk | .ilv | .cvinit | .scoreall | .maskbest => .f0
  | .bbapp => .fa
  | .gfmul => .fb
  | .gfexp => .fe
  | .gflog | .rsgen | .place => .f8
  | .verenc => .f6
  | .fmtenc => .f5
  | .mask | .score => .f3

/-- The bits of a word that its format marks 0 (R111). -/
def reservedBits : Format → Word
  | .f0 => 0x00FFFFFF#32
  | .fa => 0x00E00000#32
  | .fb => 0x00FF0000#32
  | .fe => 0x00FFFE00#32
  | .f8 => 0x00FFFF00#32
  | .f6 => 0x00FFFFC0#32
  | .f5 => 0x00FFFFE0#32
  | .f3 => 0x00FFFFF8#32

/-- The command whose opcode is `opc`, if there is one (R118, R120). -/
def mnemonicOf (opc : BitVec 8) : Option Mnemonic :=
  allMnemonics.find? (fun m => opcodeOf m == opc)

/-- The operand fields of a word that selects command `m` (R113 to R116). -/
def fieldsOf (m : Mnemonic) (w : Word) : Instr :=
  match m with
  | .nop => .nop
  | .bbclr => .bbclr
  | .bbapp => .bbapp (w.extractLsb' 16 5) (w.extractLsb' 0 16)
  | .bbappb => .bbappb
  | .bbpad => .bbpad
  | .bbst => .bbst
  | .gfmul => .gfmul (w.extractLsb' 0 8) (w.extractLsb' 8 8)
  | .gfexp => .gfexp (w.extractLsb' 0 9)
  | .gflog => .gflog (w.extractLsb' 0 8)
  | .rsgen => .rsgen (w.extractLsb' 0 8)
  | .rsenc => .rsenc
  | .rsblk => .rsblk
  | .ilv => .ilv
  | .cvinit => .cvinit
  | .place => .place (w.extractLsb' 0 8)
  | .mask => .mask (w.extractLsb' 0 3)
  | .score => .score (w.extractLsb' 0 3)
  | .scoreall => .scoreall
  | .maskbest => .maskbest
  | .fmtenc => .fmtenc (w.extractLsb' 0 5)
  | .verenc => .verenc (w.extractLsb' 0 6)

/-- The decoder of R119: total on 32-bit words, with the reason where the word is `ILLEGAL`. -/
def decode (w : Word) : Except DecodeError Instr :=
  match mnemonicOf (w.extractLsb' 24 8) with
  | none => .error .unknownOpcode
  | some m =>
    if w &&& reservedBits (formatOf m) ≠ 0#32 then .error .reservedBits
    else if m = .bbapp ∧ 16 < (w.extractLsb' 16 5).toNat then .error .appendCount
    else .ok (fieldsOf m w)

/-- The mnemonic of a command. -/
def mnemonicOfInstr : Instr → Mnemonic
  | .nop => .nop
  | .bbclr => .bbclr
  | .bbapp _ _ => .bbapp
  | .bbappb => .bbappb
  | .bbpad => .bbpad
  | .bbst => .bbst
  | .gfmul _ _ => .gfmul
  | .gfexp _ => .gfexp
  | .gflog _ => .gflog
  | .rsgen _ => .rsgen
  | .rsenc => .rsenc
  | .rsblk => .rsblk
  | .ilv => .ilv
  | .cvinit => .cvinit
  | .place _ => .place
  | .mask _ => .mask
  | .score _ => .score
  | .scoreall => .scoreall
  | .maskbest => .maskbest
  | .fmtenc _ => .fmtenc
  | .verenc _ => .verenc

/-- Bits [23:0] of the word of a command (R111, R122). -/
def operandBits : Instr → BitVec 24
  | .bbapp n value => (0#3 ++ n) ++ value
  | .gfmul a b => (0#8 ++ b) ++ a
  | .gfexp e => 0#15 ++ e
  | .gflog a => 0#16 ++ a
  | .rsgen k => 0#16 ++ k
  | .place rem => 0#16 ++ rem
  | .mask m => 0#21 ++ m
  | .score m => 0#21 ++ m
  | .fmtenc seed => 0#19 ++ seed
  | .verenc v => 0#18 ++ v
  | .nop | .bbclr | .bbappb | .bbpad | .bbst => 0#24
  | .rsenc | .rsblk | .ilv | .cvinit | .scoreall | .maskbest => 0#24

/-- The word of a command: its opcode above its operand bits (R111, R122). -/
def encode (i : Instr) : Word := opcodeOf (mnemonicOfInstr i) ++ operandBits i

/-- `mask` of R118 for a command: the opcode bits and the reserved bits of its format. -/
def rowMask (m : Mnemonic) : Word := 0xFF000000#32 ||| reservedBits (formatOf m)

/-- `match` of R118 for a command: its opcode in bits [31:24]. -/
def rowMatch (m : Mnemonic) : Word := opcodeOf m ++ 0#24

/-- The operand of an assembler line as a field of `width` bits, refused where it does not fit (R122). -/
def asmField (width v : Nat) : Option (BitVec width) :=
  if v < 2 ^ width then some (BitVec.ofNat width v) else none

/-- An assembler line, a mnemonic and its operands, as a command: an operand out of its range is refused, never
truncated (R122). -/
def assemble (m : Mnemonic) (ops : List Nat) : Option Instr :=
  match m, ops with
  | .nop, [] => some .nop
  | .bbclr, [] => some .bbclr
  | .bbapp, [n, value] =>
    if n ≤ 16 then (asmField 16 value).map (.bbapp (BitVec.ofNat 5 n)) else none
  | .bbappb, [] => some .bbappb
  | .bbpad, [] => some .bbpad
  | .bbst, [] => some .bbst
  | .gfmul, [a, b] =>
    match asmField 8 a, asmField 8 b with
    | some a, some b => some (.gfmul a b)
    | _, _ => none
  | .gfexp, [e] => (asmField 9 e).map .gfexp
  | .gflog, [a] => (asmField 8 a).map .gflog
  | .rsgen, [k] => (asmField 8 k).map .rsgen
  | .rsenc, [] => some .rsenc
  | .rsblk, [] => some .rsblk
  | .ilv, [] => some .ilv
  | .cvinit, [] => some .cvinit
  | .place, [rem] => (asmField 8 rem).map .place
  | .mask, [m] => (asmField 3 m).map .mask
  | .score, [m] => (asmField 3 m).map .score
  | .scoreall, [] => some .scoreall
  | .maskbest, [] => some .maskbest
  | .fmtenc, [seed] => (asmField 5 seed).map .fmtenc
  | .verenc, [v] => (asmField 6 v).map .verenc
  | _, _ => none

/-- The word whose low `nbits` bits are those of `w` and whose other bits are 0: the command word that the opcode
table's bits stand for. `none` where the table would give more bits than a command has (R110). -/
def tableWord (nbits w : Nat) : Option Word :=
  if nbits ≤ 32 then some (BitVec.ofNat 32 (w % 2 ^ nbits)) else none

/-- The command that the decoder reads from a word given as the opcode table numbers its bits (R8, R110). -/
def decodeTableWord (nbits w : Nat) : Option Instr :=
  match tableWord nbits w with
  | none => none
  | some word =>
    match decode word with
    | .ok i => some i
    | .error _ => none

end Sys2Proof
end

