-- ==== Sys2Proof/Machine/Reset.lean ====
section
/-! DEFINITION. Sys2Proof/Machine/Reset.lean: power-on reset, soft reset and the abort of a command in flight
(70_reset_and_hazards R360 to R363). -/

namespace Sys2Proof.Machine

/-- The state after power-on reset (R361). The model's own `events`, `rdata` and `draws` stay (DESIGN CHOICE, log entry 21). -/
def powerOnReset (s : State) : State :=
  { State.reset with events := s.events, rdata := s.rdata, draws := s.draws }

/-- CWRAM with the region that the command in flight would write made unwritten (R362, DEDUCED, log entry 11). -/
def abortCwram (s : State) : List Host.Cell :=
  match decode s.cmd with
  | .ok .rsenc => cellErase s.cwram s.dst.toNat s.eck.toNat
  | .ok .rsblk => cellErase s.cwram s.aux.toNat (ecTotal s)
  | .ok .ilv => cellErase s.cwram s.dst.toNat (dataTotal s + ecTotal s)
  | .ok .bbst => cellErase s.cwram s.dst.toNat (bbBytes s.bb)
  | _ => s.cwram

/-- The canvas, with every module unwritten if the command in flight would write any (R362, DEDUCED, log entry 11). -/
def abortCanvas (s : State) : List (Nat × Module) :=
  match decode s.cmd with
  | .ok (.place _) => []
  | .ok (.mask _) => []
  | .ok .maskbest => []
  | .ok .cvinit => []
  | _ => s.canvas

/-- A soft reset (R362): every register takes its reset value, CWRAM and the canvas stay but for what an aborted
command would have written. The model's own fields stay (DESIGN CHOICE, log entry 21). -/
def softReset (s : State) : State :=
  { State.reset with
    cwram := if s.busy then abortCwram s else s.cwram
    canvas := if s.busy then abortCanvas s else s.canvas
    events := s.events
    rdata := s.rdata
    draws := s.draws }

end Sys2Proof.Machine
end

