-- ==== Sys2Proof/Machine/Window.lean ====
section
/-! DEFINITION. Sys2Proof/Machine/Window.lean: what a host access to the register window does: the register map
(10_state R32 to R56), the memory port (20_memory R85 to R88), and accesses while busy (70_reset_and_hazards R372). -/

namespace Sys2Proof.Machine

/-- The registers of R32 that hold or show a value. -/
inductive Reg where
  | id | ctrl | status | cmd | src | dst | aux | len | blk | eck | cap | sym | cvdim | half
  | result | bblen | gendeg | masksel | best | maddr
  | score (m : Fin 8)
deriving DecidableEq, Repr

/-- What stands at an offset of the window: a register, the data port, or nothing (R32, R53, R55). -/
inductive Slot where
  | reg (r : Reg)
  | port
  | reserved
deriving DecidableEq, Repr

/-- The offset of a register (R32). -/
def regOffset : Reg → Nat
  | .id => 0x00
  | .ctrl => 0x04
  | .status => 0x08
  | .cmd => 0x0C
  | .src => 0x10
  | .dst => 0x14
  | .aux => 0x18
  | .len => 0x1C
  | .blk => 0x20
  | .eck => 0x24
  | .cap => 0x28
  | .sym => 0x2C
  | .cvdim => 0x30
  | .half => 0x34
  | .result => 0x38
  | .bblen => 0x3C
  | .gendeg => 0x40
  | .masksel => 0x44
  | .best => 0x48
  | .maddr => 0x4C
  | .score m => 0x60 + 4 * m.val

/-- The offset of `MDATA` (R32). -/
def portOffset : Nat := 0x50

/-- The registers of R32, in the order of their offsets. -/
def allRegs : List Reg :=
  [.id, .ctrl, .status, .cmd, .src, .dst, .aux, .len, .blk, .eck, .cap, .sym, .cvdim, .half, .result, .bblen,
   .gendeg, .masksel, .best, .maddr, .score 0, .score 1, .score 2, .score 3, .score 4, .score 5, .score 6, .score 7]

/-- What stands at an offset (R32, R55). -/
def slotAt (offset : Nat) : Slot :=
  if offset = portOffset then .port
  else
    match allRegs.find? (fun r => regOffset r == offset) with
    | some r => .reg r
    | none => .reserved

/-- `MASKSEL` and `BEST` as the host reads them (R32). -/
def maskRegWord (r : MaskReg) : Word := 0#24 ++ BitVec.ofBool r.valid ++ 0#4 ++ r.mask

/-- The value a host read of a register returns while the engine is idle (R32 to R54). -/
def regValue (r : Reg) (s : State) : Word :=
  match r with
  | .id => Config.idValue
  | .ctrl => 0#30 ++ BitVec.ofBool s.irqen ++ 0#1
  | .status => statusWord s
  | .cmd => s.cmd
  | .src => 0#16 ++ s.src
  | .dst => 0#16 ++ s.dst
  | .aux => 0#16 ++ s.aux
  | .len => 0#16 ++ s.len
  | .blk => s.n2 ++ s.g2 ++ s.n1 ++ s.g1
  | .eck => 0#24 ++ s.eck
  | .cap => 0#16 ++ s.cap
  | .sym => 0#18 ++ s.symVer ++ 0#6 ++ s.symClass
  | .cvdim => 0#14 ++ cvClassBits s.cvClass ++ s.cvW ++ s.cvH
  | .half => 0#16 ++ s.half
  | .result => s.result
  | .bblen => 0#16 ++ BitVec.ofNat 16 s.bb.length
  | .gendeg => 0#24 ++ s.gendeg
  | .masksel => maskRegWord s.masksel
  | .best => maskRegWord s.best
  | .maddr => 0#14 ++ s.mspace ++ s.maddr
  | .score m => s.scores[m]

/-- The registers of which a read while `BUSY = 1` returns a free value (R372). -/
def drawnWhileBusy : Reg → Bool
  | .result | .bblen | .gendeg | .masksel | .best | .cvdim => true
  | .score _ => true
  | .id | .ctrl | .status | .cmd => false
  | .src | .dst | .aux | .len | .blk | .eck | .cap | .sym | .half | .maddr => false

/-- The read-only registers, of which a write sets `AERR` (R56). -/
def readOnly : Reg → Bool
  | .id | .result | .bblen | .gendeg | .masksel | .best => true
  | .score _ => true
  | .ctrl | .status | .cmd => false
  | .src | .dst | .aux | .len | .blk | .eck | .cap | .sym | .cvdim | .half | .maddr => false

/-- A host read returns `v`. -/
def deliver (v : Word) (s : State) : State := { s with rdata := v }

/-- A host read returns a fresh free value (R372, U9). -/
def deliverDraw (s : State) : State :=
  { s with rdata := Config.busyRead s.draws, draws := s.draws + 1 }

/-- An access error sets the sticky `AERR` and nothing else (R326). -/
def accessError (s : State) : State := { s with aerr := true }

/-- A hazard refusal sets the sticky `HAZ` and nothing else (R326). -/
def hazard (s : State) : State := { s with haz := true }

/-! ### The memory port -/

/-- `MADDR.ADDR` after an access of the port (R87). -/
def advance (s : State) : State := { s with maddr := s.maddr + 1#16 }

/-- The row of a canvas address (R85). -/
def portRow (s : State) : Nat := s.maddr.toNat / 256

/-- The column of a canvas address (R85). -/
def portCol (s : State) : Nat := s.maddr.toNat % 256

/-- `valid(s, a)` of R86: the address exists in the space (R85; DEDUCED, log entry 9). -/
def portValid (s : State) : Bool :=
  if s.mspace = 0#2 then s.maddr.toNat < Config.cwBytes
  else if s.mspace = 1#2 then decide (portRow s < s.cvH.toNat) && decide (portCol s < s.cvW.toNat)
  else if s.mspace = 2#2 then s.maddr.toNat ≤ 255
  else s.maddr.toNat < Config.bbMaxBits / 8

/-- The element a valid port address names, zero-extended, or the fault of an unwritten cell (R86, R101). -/
def portElement (s : State) : Except Fault Word :=
  if s.mspace = 0#2 then
    match cellRead s.cwram s.maddr.toNat with
    | some b => .ok (b.setWidth 32)
    | none => .error (.unwrittenByte s.maddr.toNat)
  else if s.mspace = 1#2 then
    match readModule s.canvas (portRow s) (portCol s) with
    | .ok v => .ok ((moduleBits v).setWidth 32)
    | .error f => .error f
  else if s.mspace = 2#2 then .ok ((s.gen.toList.getD s.maddr.toNat 0#8).setWidth 32)
  else .ok ((bbView s.bb s.maddr.toNat).setWidth 32)

/-- A read of `MDATA` (R86, R372). -/
def readPort (s : State) : Host.Outcome State Fault Refusal :=
  if s.busy then .next (hazard (deliverDraw s))
  else if portValid s then orFault (portElement s) fun v => .next (advance (deliver v s))
  else .next (advance (accessError (deliver 0#32 s)))

/-- A write of `w` to `MDATA` (R86, R372). -/
def writePort (w : Word) (s : State) : State :=
  if s.busy then hazard s
  else if portValid s && s.mspace == 0#2 then
    advance { s with cwram := cellWrite s.cwram s.maddr.toNat (w.extractLsb' 0 8) }
  else if portValid s && s.mspace == 1#2 then
    advance { s with
      canvas := cellWrite s.canvas (moduleKey (portRow s) (portCol s)) (moduleOfBits (w.extractLsb' 0 2)) }
  else advance (accessError s)

/-! ### The registers -/

/-- A read of a register (R93, R372). -/
def readReg (r : Reg) (s : State) : State :=
  if s.busy && drawnWhileBusy r then deliverDraw s else deliver (regValue r s) s

/-- An accepted `CMD` write (R36, R320). -/
def issue (w : Word) (s : State) : State :=
  { s with cmd := w, busy := true, done := false, errcode := .none }

/-- A `CTRL` write (R34). -/
def writeCtrl (w : Word) (s : State) : State :=
  if w.getLsbD 0 then softReset s else { s with irqen := w.getLsbD 1 }

/-- `CAP` after a write of `v` (R43). -/
def capValue (v : Half) : Half := if v.toNat ≤ Config.bbMaxBits then v else BitVec.ofNat 16 Config.bbMaxBits

/-- A write of `w` to a register that is not read-only, while the engine is idle (R34 to R46, R52). A register with no
storage to write leaves the state. A `CVDIM` write leaves every module as it is, those outside the new `H × W` too, so a
later, larger `CVDIM` shows them again (DESIGN CHOICE, log entry 28). -/
def writeIdle (r : Reg) (w : Word) (s : State) : State :=
  match r with
  | .ctrl => writeCtrl w s
  | .status => writeStatus w s
  | .cmd => issue w s
  | .src => { s with src := w.extractLsb' 0 16 }
  | .dst => { s with dst := w.extractLsb' 0 16 }
  | .aux => { s with aux := w.extractLsb' 0 16 }
  | .len => { s with len := w.extractLsb' 0 16 }
  | .blk =>
    { s with
      g1 := w.extractLsb' 0 8, n1 := w.extractLsb' 8 8, g2 := w.extractLsb' 16 8, n2 := w.extractLsb' 24 8 }
  | .eck => { s with eck := w.extractLsb' 0 8 }
  | .cap => { s with cap := capValue (w.extractLsb' 0 16) }
  | .sym => { s with symClass := w.extractLsb' 0 2, symVer := w.extractLsb' 8 6 }
  | .cvdim => { s with cvH := w.extractLsb' 0 8, cvW := w.extractLsb' 8 8 }
  | .half => { s with half := w.extractLsb' 0 16 }
  | .maddr => { s with maddr := w.extractLsb' 0 16, mspace := w.extractLsb' 16 2 }
  | .id | .result | .bblen | .gendeg | .masksel | .best | .score _ => s

/-- The registers of which a write is accepted while `BUSY = 1` (R372). -/
def writableWhileBusy (r : Reg) : Bool := r == .ctrl || r == .status

/-- A write of a register (R56, R372). -/
def writeReg (r : Reg) (w : Word) (s : State) : State :=
  if readOnly r then accessError s
  else if s.busy && !writableWhileBusy r then hazard s
  else writeIdle r w s

/-! ### Accesses -/

/-- Why an access is outside the bus protocol (R81, R327). -/
def accessRefusal (offset width : Nat) : Option Refusal :=
  if 256 ≤ offset then some (.outsideWindow offset)
  else if width ≠ 4 ∨ offset % 4 ≠ 0 then some (.notAlignedWord offset width)
  else none

/-- A read of an offset of the window (R32, R55). -/
def readSlot (slot : Slot) (s : State) : Host.Outcome State Fault Refusal :=
  match slot with
  | .reg r => .next (readReg r s)
  | .port => readPort s
  | .reserved => .next (accessError (deliver 0#32 s))

/-- A write of `w` at an offset of the window (R32, R55). -/
def writeSlot (slot : Slot) (w : Word) (s : State) : State :=
  match slot with
  | .reg r => writeReg r w s
  | .port => writePort w s
  | .reserved => accessError s

/-- One host access (R30, R81). -/
def hostAccess (a : Access) (s : State) : Host.Outcome State Fault Refusal :=
  match a with
  | .read offset width =>
    match accessRefusal offset width with
    | some r => .refused r
    | none => readSlot (slotAt offset) s
  | .write offset width w =>
    match accessRefusal offset width with
    | some r => .refused r
    | none => .next (writeSlot (slotAt offset) w s)

/-- The offset of a platform address in a window placed at `base` (R80); an address below the window is outside
it (DESIGN CHOICE, log entry 17). -/
def windowOffset (base address : Nat) : Nat := if base ≤ address then address - base else 256

end Sys2Proof.Machine
end

