-- ==== Sys2Proof/Machine/Engine.lean ====
section
/-! DEFINITION. Sys2Proof/Machine/Engine.lean: the engine's step and the events of the total order (10_state R30,
60_exceptions R320, 20_memory R96). -/

namespace Sys2Proof.Machine

/-- The command in flight: decode the latched word and perform it, or complete with `ILLEGAL` (R119, R320). -/
def runCommand (s : State) : Host.Outcome State Fault Refusal :=
  match decode s.cmd with
  | .ok i => exec i s
  | .error _ => .next (raiseError .illegal s)

/-- The engine's step: the command in flight, or nothing while idle (R30, R338). -/
def engineStep (s : State) : Host.Outcome State Fault Refusal :=
  if s.busy then runCommand s else .next s

/-- One event of the total order (R96). -/
def runEvent (e : Event) (s : State) : Host.Outcome State Fault Refusal :=
  match e with
  | .host a => hostAccess a s
  | .engine => engineStep s
  | .powerOn => .next (powerOnReset s)

/-- The next event, taken from the list; with none left the engine has the step (R320 fairness, DESIGN CHOICE, log entry 2). -/
def runNext (s : State) : Host.Outcome State Fault Refusal :=
  match s.events with
  | [] => engineStep s
  | e :: rest => runEvent e { s with events := rest }

/-- The state in which the command word of a table row is in flight and the engine has the next step: an accepted
`CMD` write followed by the engine's event (R36, R320; DESIGN CHOICE, log entry 3). -/
def placeCommand (nbits w : Nat) (s : State) : State :=
  match tableWord nbits w with
  | some word => { issue word s with events := .engine :: s.events }
  | none => s

end Sys2Proof.Machine
end

