-- ==== Sys2Proof/Machine/Step.lean ====
section
/-! DEFINITION. Sys2Proof/Machine/Step.lean: one step of QREC: the next event of the total order (20_memory R96). -/

namespace Sys2Proof.Machine

/-- One step: the next host access, engine step or reset (R30, R96). -/
def step (s : State) : Host.Outcome State Fault Refusal := runNext s

/-- `s` with the command word of a table row in flight, so that the very next step runs it (DESIGN CHOICE, log entry 3). -/
def State.withFetchWord (s : State) (nbits w : Nat) : State := placeCommand nbits w s

end Sys2Proof.Machine
end

