-- ==== Sys2Proof/Safety.lean ====
section
/-! DEFINITION. Sys2Proof/Safety.lean: the terms in which claims about QREC are stated. The invariant of every step, what
a clean run and a clean entry are (60_exceptions R342, 70_reset_and_hazards R365), and the spec's own closed forms of
what commands compute, written from the rules and not from the meanings. -/

namespace Sys2Proof.Machine

/-! ### Runs -/

/-- What every step keeps: memories in canonical form (R58, R61), `len(BB)` and `CAP` within the storage (R43, R60),
`GEN` the generator of degree `GENDEG` (R59), no completion shown while a command is in flight (R35, R36), a mask
recorded exactly on a masked canvas (R50, R230), and a canvas class latched only by `CVINIT` (R45, R63). -/
def MachineInv (s : State) : Prop :=
  Memory.wf s.cwram ∧ Canvas.wf s.canvas
    ∧ s.bb.length ≤ Config.bbMaxBits ∧ s.cap.toNat ≤ Config.bbMaxBits
    ∧ s.gen = genFile (genPoly s.gendeg.toNat)
    ∧ (s.busy = true → s.done = false ∧ s.errcode = .none)
    ∧ (s.masksel.valid = true ↔ s.cvstate = .masked)
    ∧ (s.cvstate = .none → s.cvClass = .normal)

/-- The end of a run is reached: nothing in flight, and the host has made its last access (R342). Events of the engine
or of the platform may be left. -/
def runOver (s : State) : Bool := !s.busy && s.events.all (fun e => match e with | .host _ => false | _ => true)

/-- At most `n` steps of the run from `s`, up to the first state in which it is over; a step that stops ends it. -/
def runFor : Nat → State → Host.Outcome State Fault Refusal
  | 0, s => .next s
  | n + 1, s =>
    if runOver s then .next s
    else
      match step s with
      | .next t => runFor n t
      | .fault f => .fault f
      | .refused r => .refused r

/-- The run from `s` ends at `t`, the first state in which it is over (R342): the observation is `t`. -/
def runEndsAt (s t : State) : Prop := (∃ n, runFor n s = .next t) ∧ runOver t = true

/-- The run from `s` ends at `t` and is clean (R342): no fault and no refusal, since it has a last state, and no hazard
and no access error shown in `t`. -/
def cleanRun (s t : State) : Prop := runEndsAt s t ∧ t.haz = false ∧ t.aerr = false

/-- The first item of `qrec_clean_entry` (R365): nothing in flight, and no completion, error, hazard or access error
shown. -/
def flagsClear (s : State) : Bool := !s.busy && !s.done && s.errcode == .none && !s.haz && !s.aerr

/-- The third item of `qrec_clean_entry` (R365): each register reads the value that `named` gives it, and its reset value
where `named` gives none; `GEN` and `BB` hold their reset contents unless `GENDEG` and `BBLEN` are named. -/
def registersAs (named : List (Reg × Word)) (s : State) : Bool :=
  allRegs.all (fun r => regValue r s == (named.lookup r).getD (regValue r State.reset))
    && ((named.lookup .gendeg).isSome || s.gen == genReset) && ((named.lookup .bblen).isSome || s.bb == [])

/-- The CWRAM that holds the cells of a list and no others. -/
def cwramOf (cells : List Host.Cell) : List Host.Cell := cells.foldl (fun m c => cellWrite m c.1 c.2) []

/-- `qrec_clean_entry` (R365) for a claim that names register values `named` and CWRAM bytes `cells`, and whose program
is the events of `s`. The second item holds of every state, since a fault or a refusal leaves none. The last two lines are
the fourth item: the named bytes are written with their values, and the program, on the named bytes alone, reads no
unwritten byte, so that every byte it reads before writing is a named one. -/
def cleanEntry (named : List (Reg × Word)) (cells : List Host.Cell) (s : State) : Prop :=
  flagsClear s = true ∧ registersAs named s = true
    ∧ (∀ c ∈ cells, cellRead s.cwram c.1 = some c.2)
    ∧ ∀ n a, runFor n { s with cwram := cwramOf cells } ≠ .fault (.unwrittenByte a)

/-! ### Completion -/

/-- `s` with the completion fields of R320 for a command that ends with `e` (`none` for `complete`). -/
def endsWith (e : ErrCode) (s : State) : State := { s with busy := false, done := true, errcode := e }

/-! ### The opcode map of R118, as the table prints it: match and mask of each row -/

/-- `match` and `mask` of a row (R118). -/
def specRow : Mnemonic → Word × Word
  | .nop => (0x00000000#32, 0xFFFFFFFF#32)
  | .bbclr => (0x01000000#32, 0xFFFFFFFF#32)
  | .bbapp => (0x02000000#32, 0xFFE00000#32)
  | .bbappb => (0x03000000#32, 0xFFFFFFFF#32)
  | .bbpad => (0x04000000#32, 0xFFFFFFFF#32)
  | .bbst => (0x05000000#32, 0xFFFFFFFF#32)
  | .gfmul => (0x10000000#32, 0xFFFF0000#32)
  | .gfexp => (0x11000000#32, 0xFFFFFE00#32)
  | .gflog => (0x12000000#32, 0xFFFFFF00#32)
  | .rsgen => (0x20000000#32, 0xFFFFFF00#32)
  | .rsenc => (0x21000000#32, 0xFFFFFFFF#32)
  | .rsblk => (0x22000000#32, 0xFFFFFFFF#32)
  | .ilv => (0x23000000#32, 0xFFFFFFFF#32)
  | .cvinit => (0x30000000#32, 0xFFFFFFFF#32)
  | .place => (0x31000000#32, 0xFFFFFF00#32)
  | .mask => (0x32000000#32, 0xFFFFFFF8#32)
  | .score => (0x33000000#32, 0xFFFFFFF8#32)
  | .scoreall => (0x34000000#32, 0xFFFFFFFF#32)
  | .maskbest => (0x35000000#32, 0xFFFFFFFF#32)
  | .fmtenc => (0x40000000#32, 0xFFFFFFE0#32)
  | .verenc => (0x41000000#32, 0xFFFFFFC0#32)

/-! ### Regions and memory -/

/-- A region passes the range check of R90. -/
abbrev regionFits (a n : Nat) : Prop := n = 0 ∨ a + n ≤ Config.cwBytes

/-- Two regions share a byte (R91). -/
abbrev regionsMeet (a n b m : Nat) : Prop := 0 < n ∧ 0 < m ∧ a < b + m ∧ b < a + n

/-- Every byte of `[a, a + n)` has been written (R101). -/
abbrev bytesWritten (s : State) (a n : Nat) : Prop := ∀ i < n, (cellRead s.cwram (a + i)).isSome = true

/-- The CWRAM byte at `a`, for a byte that has been written. -/
def byteAt (s : State) (a : Nat) : Byte := (cellRead s.cwram a).getD 0#8

/-- The `n` bytes from `a`, for bytes that have been written. -/
def bytesAt (s : State) (a n : Nat) : List Byte := (List.range n).map (fun i => byteAt s (a + i))

/-- `mem` holds what CWRAM held outside `[a, a + n)`. -/
def keptOutside (s : State) (mem : List Host.Cell) (a n : Nat) : Prop :=
  ∀ x, ¬(a ≤ x ∧ x < a + n) → cellRead mem x = cellRead s.cwram x

/-- Every module of the canvas has been written (R101). -/
abbrev canvasWritten (s : State) : Prop :=
  ∀ r < s.cvH.toNat, ∀ c < s.cvW.toNat, (cellRead s.canvas (256 * r + c)).isSome = true

/-- The module at row `r`, column `c` is written and is a data module. -/
def isDataModule (s : State) (x : Nat × Nat) : Bool :=
  match cellRead s.canvas (256 * x.1 + x.2) with
  | some v => !v.function
  | none => false

/-! ### Operands -/

/-- `sym_valid` (R44). -/
abbrev symOk (s : State) : Prop :=
  (s.symClass = 0#2 ∧ 1 ≤ s.symVer.toNat ∧ s.symVer.toNat ≤ 40)
    ∨ (s.symClass = 1#2 ∧ 1 ≤ s.symVer.toNat ∧ s.symVer.toNat ≤ 4)
    ∨ s.symClass = 2#2

/-- `B` (R200). -/
def specBlocks (s : State) : Nat := s.g1.toNat + s.g2.toNat

/-- `len_b(b)` (R200). -/
def specLen (s : State) (b : Nat) : Nat := if b < s.g1.toNat then s.n1.toNat else s.n2.toNat

/-- `off(b)` (R200). -/
def specOff (s : State) (b : Nat) : Nat := ∑ b' ∈ Finset.range b, specLen s b'

/-- `Dtot` (R200). -/
def specData (s : State) : Nat := s.g1.toNat * s.n1.toNat + s.g2.toNat * s.n2.toNat

/-- `Etot` (R200). -/
def specEc (s : State) : Nat := (s.g1.toNat + s.g2.toNat) * s.eck.toNat

/-- Where the interleaved stream holds codeword `i` of block `b`: after the columns before `i`, and after the blocks
before `b` that reach column `i` (R205). -/
def specDataPos (s : State) (b i : Nat) : Nat :=
  (∑ b' ∈ Finset.range (specBlocks s), min (specLen s b') i)
    + ((Finset.range b).filter (fun b' => i < specLen s b')).card

/-- The registers no command writes (R57), `CVDIM.H` and `CVDIM.W` apart. -/
def operandsKept (s t : State) : Prop :=
  t.src = s.src ∧ t.dst = s.dst ∧ t.aux = s.aux ∧ t.len = s.len
    ∧ t.g1 = s.g1 ∧ t.n1 = s.n1 ∧ t.g2 = s.g2 ∧ t.n2 = s.n2 ∧ t.eck = s.eck
    ∧ t.cap = s.cap ∧ t.symClass = s.symClass ∧ t.symVer = s.symVer ∧ t.half = s.half

/-! ### The bit buffer -/

/-- `term_bits` of a Normal or Micro symbol (R146). -/
def specTerm (s : State) : Nat := if s.symClass = 0#2 then 4 else 2 * s.symVer.toNat + 1

/-- The length of the terminator and the alignment zeros that `BBPAD` appends (R147). -/
def specAligned (len cap term : Nat) : Nat :=
  let t := min term (cap - len)
  t + min ((8 - (len + t) % 8) % 8) (cap - (len + t))

/-- Bit `j` of what `BBPAD` appends: zeros, then whole pad bytes `EC 11 EC …` MSB first, then zeros (R147, R149). -/
def specPadBit (len cap term j : Nat) : Bool :=
  let z := specAligned len cap term
  if j < z then false
  else if j < z + 8 * ((cap - (len + z)) / 8) then
    (if (j - z) / 8 % 2 = 0 then 0xEC#8 else 0x11#8).getLsbD (7 - (j - z) % 8)
  else false

/-! ### Polynomials -/

/-- The product of two polynomials over GF(2), bit `i` the coefficient of `x^i` (R170, R290). -/
def clMul (a b : Nat) : Nat :=
  (List.range (Nat.log2 b + 1)).foldl (fun acc i => if b.testBit i then acc ^^^ (a <<< i) else acc) 0

/-- The value at `x` of the polynomial over GF(256) with these coefficients, highest degree first (R193). -/
def evalHigh (c : List Byte) (x : Byte) : Byte := c.foldl (fun acc a => gfMul acc x ^^^ a) 0#8

/-- The value at `x` of the product of the factors `x ⊕ α^i`, `i < k` (R190). -/
def rootProduct (k : Nat) (x : Byte) : Byte :=
  (List.range k).foldl (fun acc i => gfMul acc (x ^^^ gfExp i)) 1#8

/-! ### The canvas -/

/-- `C[q]` of R242, the `q`-th column from the right with column `t` left out. -/
def specPathColumn (w t q : Nat) : Nat := if t < w - 1 - q then w - 1 - q else w - 2 - q

/-- `pred_i(r, c)` (R250), for an index of three bits. -/
abbrev specPred (i r c : Nat) : Prop :=
  (i = 0 ∧ (r + c) % 2 = 0) ∨ (i = 1 ∧ r % 2 = 0) ∨ (i = 2 ∧ c % 3 = 0) ∨ (i = 3 ∧ (r + c) % 3 = 0)
    ∨ (i = 4 ∧ (r / 2 + c / 3) % 2 = 0) ∨ (i = 5 ∧ (r * c) % 2 + (r * c) % 3 = 0)
    ∨ (i = 6 ∧ ((r * c) % 2 + (r * c) % 3) % 2 = 0) ∨ (i = 7 ∧ ((r + c) % 2 + (r * c) % 3) % 2 = 0)

/-- The predicate index of mask `m`: Micro masks 0 to 3 are the Normal predicates 1, 4, 6, 7 (R252). -/
def specIndex (cls : CvClass) (m : Nat) : Nat := if cls = .micro then [1, 4, 6, 7].getD m m else m

/-- The candidates of a canvas class (R263). -/
abbrev isCandidate (cls : CvClass) (m : BitVec 3) : Prop := cls = .micro → m.toNat ≤ 3

/-- MASK, SCORE, SCOREALL and MASKBEST are allowed: the canvas is Normal or Micro, in EMPTY or PLACED (R251, R262). -/
abbrev maskAllowed (s : State) : Prop := s.cvClass ≠ .rmqr ∧ (s.cvstate = .empty ∨ s.cvstate = .placed)

/-- The module that `MASK m` leaves at row `r`, column `c` where `v` stood (R251). -/
def specMasked (cls : CvClass) (m r c : Nat) (v : Module) : Module :=
  if v.function = false ∧ specPred (specIndex cls m) r c then { v with dark := !v.dark } else v

/-- `col_m(r, c)` (R255), 1 for dark; for a module that has been written. -/
def specColour (s : State) (m r c : Nat) : Bool :=
  match cellRead s.canvas (256 * r + c) with
  | some v => (specMasked s.cvClass m r c v).dark
  | none => false

/-- Bit `j` of the stream that `PLACE` consumes (R241): MSB first within each codeword, 4 bits of the half codeword,
then the remainder zeros. -/
def specStreamBit (s : State) (j : Nat) : Bool :=
  let halved := s.half.toNat < s.len.toNat
  let q := if halved ∧ 8 * s.half.toNat + 4 ≤ j then j + 4 else j
  if q < 8 * s.len.toNat then (byteAt s (s.src.toNat + q / 8)).getLsbD (7 - q % 8) else false

/-! ### What commands consume (R101, R327; log entries 4 and 5) -/

/-- The CWRAM byte at `x` is one that the command consumes: it lies in a region the command reads, and the command's
effect depends on it (R145, R198, R202, R206, R243). -/
def consumesByte (i : Instr) (s : State) (x : Nat) : Prop :=
  match i with
  | .bbappb | .place _ => s.src.toNat ≤ x ∧ x < s.src.toNat + s.len.toNat
  | .rsenc => s.eck ≠ 0#8 ∧ s.src.toNat ≤ x ∧ x < s.src.toNat + s.len.toNat
  | .rsblk => s.eck ≠ 0#8 ∧ s.src.toNat ≤ x ∧ x < s.src.toNat + specData s
  | .ilv => (s.src.toNat ≤ x ∧ x < s.src.toNat + specData s) ∨ (s.aux.toNat ≤ x ∧ x < s.aux.toNat + specEc s)
  | .nop | .bbclr | .bbapp _ _ | .bbpad | .bbst | .gfmul _ _ | .gfexp _ | .gflog _ | .rsgen _ => False
  | .cvinit | .mask _ | .score _ | .scoreall | .maskbest | .fmtenc _ | .verenc _ => False

/-- The modules that scoring consumes: on a Normal canvas all of them (R255), on a Micro canvas those that R261 sums. -/
def scoringModule (s : State) (r c : Nat) : Prop :=
  s.cvClass = .normal ∨ (1 ≤ r ∧ c = s.cvW.toNat - 1) ∨ (1 ≤ c ∧ r = s.cvH.toNat - 1)

/-- The canvas module at row `r`, column `c` is one that the command consumes: on the path outside the timing column for
`PLACE` (R240, R242), where the predicate holds for `MASK` (R251), where scoring looks for the scoring commands. -/
def consumesModule (i : Instr) (s : State) (r c : Nat) : Prop :=
  r < s.cvH.toNat ∧ c < s.cvW.toNat ∧
    match i with
    | .place _ => (s.cvClass = .normal ∧ c ≠ 6) ∨ (s.cvClass = .micro ∧ c ≠ 0)
    | .mask m => specPred (specIndex s.cvClass m.toNat) r c
    | .score _ | .scoreall => scoringModule s r c
    | .maskbest =>
      scoringModule s r c ∨ ∃ m : BitVec 3, isCandidate s.cvClass m ∧ specPred (specIndex s.cvClass m.toNat) r c
    | .nop | .bbclr | .bbapp _ _ | .bbappb | .bbpad | .bbst | .gfmul _ _ | .gfexp _ | .gflog _ => False
    | .rsgen _ | .rsenc | .rsblk | .ilv | .cvinit | .fmtenc _ | .verenc _ => False

/-! ### Scores, over a colour function -/

/-- `[a, b)` is a maximal run of a line of `n` modules (R256). -/
abbrev maximalRun (line : Nat → Bool) (n a b : Nat) : Prop :=
  a < b ∧ b ≤ n ∧ (∀ i < b, a ≤ i → line i = line a)
    ∧ (a = 0 ∨ line (a - 1) ≠ line a) ∧ (b = n ∨ line b ≠ line a)

/-- What a line of `n` modules adds to P1: `L - 2` for each maximal run of length `L ≥ 5` (R256). -/
def specRuns (line : Nat → Bool) (n : Nat) : Nat :=
  ∑ a ∈ Finset.range n, ∑ b ∈ Finset.range (n + 1), if maximalRun line n a b ∧ a + 5 ≤ b then b - a - 2 else 0

/-- The 11 modules from position `p` of a line (R258). -/
def window11 (line : Nat → Bool) (p : Nat) : List Bool := (List.range 11).map (fun i => line (p + i))

/-- The finder-like windows of a line of `n` modules (R258); `1` is dark. -/
def specFinders (line : Nat → Bool) (n : Nat) : Nat :=
  ((Finset.range n).filter (fun p => p + 11 ≤ n
    ∧ (window11 line p = [true, false, true, true, true, false, true, false, false, false, false]
      ∨ window11 line p = [false, false, false, false, true, false, true, true, true, false, true]))).card

/-- P1 (R256). -/
def specP1 (h w : Nat) (col : Nat → Nat → Bool) : Nat :=
  (∑ r ∈ Finset.range h, specRuns (col r) w) + ∑ c ∈ Finset.range w, specRuns (fun r => col r c) h

/-- P2 (R257). -/
def specP2 (h w : Nat) (col : Nat → Nat → Bool) : Nat :=
  3 * (((Finset.range h) ×ˢ (Finset.range w)).filter (fun x => x.1 + 1 < h ∧ x.2 + 1 < w
    ∧ col x.1 x.2 = col (x.1 + 1) x.2 ∧ col x.1 x.2 = col x.1 (x.2 + 1)
    ∧ col x.1 x.2 = col (x.1 + 1) (x.2 + 1))).card

/-- P3 (R258). -/
def specP3 (h w : Nat) (col : Nat → Nat → Bool) : Nat :=
  40 * ((∑ r ∈ Finset.range h, specFinders (col r) w) + ∑ c ∈ Finset.range w, specFinders (fun r => col r c) h)

/-- `Dk` of R259. -/
def specDark (h w : Nat) (col : Nat → Nat → Bool) : Nat :=
  (((Finset.range h) ×ˢ (Finset.range w)).filter (fun x => col x.1 x.2 = true)).card

/-- P4 (R259): `10 · ⌊|20·Dk − 10·Tn| / Tn⌋`. -/
def specP4 (h w : Nat) (col : Nat → Nat → Bool) : Nat :=
  10 * ((20 * (specDark h w col : Int) - 10 * ((h * w : Nat) : Int)).natAbs / (h * w))

/-- The Normal penalty (R260). -/
def specPenalty (h w : Nat) (col : Nat → Nat → Bool) : Nat :=
  specP1 h w col + specP2 h w col + specP3 h w col + specP4 h w col

/-- The Micro score (R261). -/
def specMicro (h w : Nat) (col : Nat → Nat → Bool) : Nat :=
  ((Finset.range h).filter (fun r => 1 ≤ r ∧ col r (w - 1) = true)).card
    + 16 * ((Finset.range w).filter (fun c => 1 ≤ c ∧ col (h - 1) c = true)).card

/-! ### Resets -/

/-- The CWRAM byte at `x` is in the region that the command in flight would write (R362). -/
def abortsByte (s : State) (x : Nat) : Prop :=
  match decode s.cmd with
  | .ok .rsenc => s.dst.toNat ≤ x ∧ x < s.dst.toNat + s.eck.toNat
  | .ok .rsblk => s.aux.toNat ≤ x ∧ x < s.aux.toNat + specEc s
  | .ok .ilv => s.dst.toNat ≤ x ∧ x < s.dst.toNat + (specData s + specEc s)
  | .ok .bbst => s.dst.toNat ≤ x ∧ x < s.dst.toNat + (s.bb.length + 7) / 8
  | _ => False

/-- The command in flight would write canvas modules (R362). -/
def abortsCanvas (s : State) : Prop :=
  (∃ rem, decode s.cmd = .ok (.place rem)) ∨ (∃ m, decode s.cmd = .ok (.mask m))
    ∨ decode s.cmd = .ok .maskbest ∨ decode s.cmd = .ok .cvinit

end Sys2Proof.Machine
end

