-- ==== Sys2Proof/Certificates/Slice0/Obligations.lean ====
section
/-! DEFINITION. Sys2Proof/Certificates/Slice0/Obligations.lean: statements about QREC for the provers, each from a
numbered rule of spec/ or derived from the sections its entry in OBLIGATIONS.json cites. -/

open Sys2Proof Sys2Proof.Machine

/-! ### Encoding -/

/-- O1. Words written out from R122 decode to their commands, and words of R119 are `ILLEGAL`. -/
def Obligations.SampleWordsDecode : Prop :=
  decode 0x00000000#32 = .ok .nop ∧ decode 0x01000000#32 = .ok .bbclr
    ∧ decode 0x02040001#32 = .ok (.bbapp 4#5 1#16) ∧ decode 0x02100001#32 = .ok (.bbapp 16#5 1#16)
    ∧ decode 0x1000CA53#32 = .ok (.gfmul 0x53#8 0xCA#8) ∧ decode 0x1100012C#32 = .ok (.gfexp 300#9)
    ∧ decode 0x2000000A#32 = .ok (.rsgen 10#8) ∧ decode 0x23000000#32 = .ok .ilv
    ∧ decode 0x310000D4#32 = .ok (.place 212#8) ∧ decode 0x32000005#32 = .ok (.mask 5#3)
    ∧ decode 0x35000000#32 = .ok .maskbest ∧ decode 0x40000005#32 = .ok (.fmtenc 5#5)
    ∧ decode 0x4100003F#32 = .ok (.verenc 63#6)
    ∧ decode 0xFF000000#32 = .error .unknownOpcode ∧ decode 0x06000000#32 = .error .unknownOpcode
    ∧ decode 0x00000001#32 = .error .reservedBits ∧ decode 0x10010203#32 = .error .reservedBits
    ∧ decode 0x11000200#32 = .error .reservedBits ∧ decode 0x02110000#32 = .error .appendCount

/-- O2. Decoding the word of a well-formed command gives the command back (R119, R122). -/
def Obligations.DecodeOfEncode : Prop := ∀ i : Instr, i.wf = true → decode (encode i) = .ok i

/-- O3. A word that decodes is the word of the command it decodes to, so no reserved bit is ignored (R119, R120). -/
def Obligations.EncodeOfDecode : Prop :=
  ∀ (w : Word) (i : Instr), decode w = .ok i → i.wf = true ∧ encode i = w

/-- O4. A word selects a row of R118 exactly when `(w & mask) = match`, and for `BBAPP` also `w[20:16] ≤ 16`. -/
def Obligations.WordSelectsRow : Prop :=
  ∀ (w : Word) (m : Mnemonic),
    (∃ i, decode w = .ok i ∧ mnemonicOfInstr i = m)
      ↔ (w &&& (specRow m).2 = (specRow m).1 ∧ (m = .bbapp → (w.extractLsb' 16 5).toNat ≤ 16))

/-! ### Steps -/

/-- O5. While a command is in flight and the engine has the step, the step is `exec` of the decoded command, on the
state without the engine's event; and the state that `withFetchWord` gives runs the table's word next (R320). That the
engine has the step when no event is left is log entry 2, that events stand in State is log entry 1, how
`withFetchWord` places a word is log entry 3, and how a table word is laid out is log entry 24: these are the model's
choices. -/
def Obligations.StepRunsDecodedCommand : Prop :=
  (∀ (s : State) (i : Instr), s.busy = true → decode s.cmd = .ok i →
    (s.events = [] → step s = exec i s)
      ∧ ∀ rest, s.events = .engine :: rest → step s = exec i { s with events := rest })
  ∧ ∀ (s : State) (nbits w : Nat) (i : Instr), decodeTableWord nbits w = some i →
      step (s.withFetchWord nbits w)
        = exec i { s with cmd := BitVec.ofNat 32 (w % 2 ^ nbits), busy := true, done := false, errcode := .none }

/-- O6. A word that does not decode completes with `ILLEGAL` and changes nothing else (R119), when the engine's event
is next and when no event is left; that the engine then has the step is the model's choice, log entry 2, and the event
list is log entry 1. -/
def Obligations.IllegalWordCompletes : Prop :=
  ∀ (s : State) (e : DecodeError), s.busy = true → decode s.cmd = .error e →
    (s.events = [] → step s = .next { s with busy := false, done := true, errcode := .illegal })
      ∧ ∀ rest, s.events = .engine :: rest →
          step s = .next { s with events := rest, busy := false, done := true, errcode := .illegal }

/-- O7. While idle the engine keeps every piece of state (R338). That it has the step when no event is left is the
model's choice, log entry 2, and the event list is log entry 1. -/
def Obligations.IdleEngineKeepsState : Prop :=
  ∀ s : State, s.busy = false →
    (s.events = [] → step s = .next s)
      ∧ ∀ rest, s.events = .engine :: rest → step s = .next { s with events := rest }

/-- O8. A step takes the next event of the total order: a host access, or power-on reset, which leaves the model's own
fields (R96, R361; the events in State are the model's, log entries 1 and 21). -/
def Obligations.StepTakesNextEvent : Prop :=
  ∀ (s : State) (rest : List Event),
    (∀ a, s.events = .host a :: rest → step s = hostAccess a { s with events := rest })
      ∧ (s.events = .powerOn :: rest →
          step s = .next { State.reset with events := rest, rdata := s.rdata, draws := s.draws })

/-! ### Control and bit buffer -/

/-- O9. `NOP` completes without effect (R310). -/
def Obligations.NopCompletes : Prop := ∀ s : State, exec .nop s = .next (endsWith .none s)

/-- O10. `BBCLR`, the word 0x01000000, empties the bit buffer, so that `BBLEN` is 0, and leaves all else (R142). -/
def Obligations.BbclrEmptiesBuffer : Prop :=
  decode 0x01000000#32 = .ok .bbclr
    ∧ ∀ s : State, exec .bbclr s = .next { endsWith .none s with bb := [] }
        ∧ regValue .bblen { endsWith .none s with bb := [] } = 0#32

/-- O11. `BBAPP n, value` ends with `ILLEGAL` for `n > 16`, with `DATA_TOO_LONG` past `CAP`, and otherwise appends the
low `n` bits of `value`, most significant first, and leaves everything else (R113, R141, R143). That a term with `n >
16`, to which no word decodes, ends with `ILLEGAL` in `exec` is log entry 19, an inference. -/
def Obligations.BbappAppendsBits : Prop :=
  ∀ (n : BitVec 5) (value : BitVec 16) (s : State),
    (16 < n.toNat → exec (.bbapp n value) s = .next (endsWith .illegal s))
      ∧ (n.toNat ≤ 16 → s.cap.toNat < s.bb.length + n.toNat →
          exec (.bbapp n value) s = .next (endsWith .dataTooLong s))
      ∧ (n.toNat ≤ 16 → s.bb.length + n.toNat ≤ s.cap.toNat →
          ∃ bits : List Bool, exec (.bbapp n value) s = .next { endsWith .none s with bb := s.bb ++ bits }
            ∧ bits.length = n.toNat
            ∧ ∀ j < n.toNat, bits[j]? = some (value.getLsbD (n.toNat - 1 - j)))

/-- O12. `BBAPPB`, the word 0x03000000, ends with `RANGE`, then with `DATA_TOO_LONG`, and otherwise appends the `LEN`
bytes at `SRC`, each most significant bit first, and leaves everything else (R83, R90, R145). -/
def Obligations.BbappbAppendsBytes : Prop :=
  decode 0x03000000#32 = .ok .bbappb ∧ ∀ s : State,
    (¬regionFits s.src.toNat s.len.toNat → exec .bbappb s = .next (endsWith .range s))
      ∧ (regionFits s.src.toNat s.len.toNat → s.cap.toNat < s.bb.length + 8 * s.len.toNat →
          exec .bbappb s = .next (endsWith .dataTooLong s))
      ∧ (regionFits s.src.toNat s.len.toNat → s.bb.length + 8 * s.len.toNat ≤ s.cap.toNat →
          bytesWritten s s.src.toNat s.len.toNat →
          ∃ bits : List Bool, exec .bbappb s = .next { endsWith .none s with bb := s.bb ++ bits }
            ∧ bits.length = 8 * s.len.toNat
            ∧ ∀ i < s.len.toNat, ∀ j < 8,
                bits[8 * i + j]? = some ((byteAt s (s.src.toNat + i)).getLsbD (7 - j)))

/-- O13. `BBPAD`, the word 0x04000000, ends with `INVALID_VERSION`, `UNSUPPORTED`, `DATA_TOO_LONG` in that order, and
otherwise appends the terminator, the alignment zeros, the pad bytes `EC 11 EC …` and final zeros, up to exactly `CAP`
bits (R146 to R149). -/
def Obligations.BbpadPadsToCapacity : Prop :=
  decode 0x04000000#32 = .ok .bbpad ∧ ∀ s : State,
    (¬symOk s → exec .bbpad s = .next (endsWith .invalidVersion s))
      ∧ (symOk s → s.symClass = 2#2 → exec .bbpad s = .next (endsWith .unsupported s))
      ∧ (symOk s → s.symClass ≠ 2#2 → s.cap.toNat < s.bb.length →
          exec .bbpad s = .next (endsWith .dataTooLong s))
      ∧ (symOk s → s.symClass ≠ 2#2 → s.bb.length ≤ s.cap.toNat →
          ∃ bits : List Bool, exec .bbpad s = .next { endsWith .none s with bb := s.bb ++ bits }
            ∧ s.bb.length + bits.length = s.cap.toNat
            ∧ ∀ j < bits.length, bits[j]? = some (specPadBit s.bb.length s.cap.toNat (specTerm s) j))

/-- O14. `BBST`, the word 0x05000000, ends with `RANGE`, or writes the byte view of the buffer at `DST`, most
significant bit first with zeros after the last bit, sets `RESULT` to the byte count, and leaves everything else (R140,
R150). That an empty region passes the range check whatever its address is R90's sentence, followed against the
command's pseudocode: log entry 27, an inference. -/
def Obligations.BbstStoresBytes : Prop :=
  decode 0x05000000#32 = .ok .bbst ∧ ∀ s : State,
    (¬regionFits s.dst.toNat ((s.bb.length + 7) / 8) → exec .bbst s = .next (endsWith .range s))
      ∧ (regionFits s.dst.toNat ((s.bb.length + 7) / 8) →
          ∃ mem, exec .bbst s
              = .next { endsWith .none s with cwram := mem, result := BitVec.ofNat 32 ((s.bb.length + 7) / 8) }
            ∧ (∀ i < (s.bb.length + 7) / 8, ∃ b : Byte, cellRead mem (s.dst.toNat + i) = some b
                ∧ ∀ j < 8, b.getLsbD (7 - j) = s.bb.getD (8 * i + j) false)
            ∧ keptOutside s mem s.dst.toNat ((s.bb.length + 7) / 8))

/-- O15. Once `CAP` is below `len(BB)`, every append ends with `DATA_TOO_LONG`, a zero-bit one too; `BBAPPB` where its
region is in range, and `BBPAD` where `SYM` is a valid Normal or Micro symbol (R373, R322). -/
def Obligations.LoweredCapacityFailsAppends : Prop :=
  ∀ s : State, s.cap.toNat < s.bb.length →
    (∀ (n : BitVec 5) (value : BitVec 16), n.toNat ≤ 16 →
      exec (.bbapp n value) s = .next (endsWith .dataTooLong s))
    ∧ (regionFits s.src.toNat s.len.toNat → exec .bbappb s = .next (endsWith .dataTooLong s))
    ∧ (symOk s → s.symClass ≠ 2#2 → exec .bbpad s = .next (endsWith .dataTooLong s))

/-! ### Field arithmetic -/

/-- O16. The tables: `EXP` starts at 1 and multiplies by `x` modulo 0x11D, has period 255, and every nonzero byte is
`EXP[i]` for exactly one `i ≤ 254` (R170, R171, R173). -/
def Obligations.ExpTableIsPrimitive : Prop :=
  gfExp 0 = 1#8
    ∧ (∀ i, (gfExp (i + 1)).toNat
        = if 128 ≤ (gfExp i).toNat then (2 * (gfExp i).toNat) ^^^ 0x11D else 2 * (gfExp i).toNat)
    ∧ (∀ i, gfExp (i + 255) = gfExp i)
    ∧ ∀ a : Byte, a ≠ 0#8 → ∃ i ≤ 254, gfExp i = a ∧ ∀ j ≤ 254, gfExp j = a → j = i

/-- O17. The product is multiplication of polynomials modulo 0x11D (R172): the carry-less product differs from it by a
multiple of 0x11D. -/
def Obligations.ProductIsModuloPolynomial : Prop :=
  ∀ a b : Byte, ∃ q, clMul a.toNat b.toNat = clMul q 0x11D ^^^ (gfMul a b).toNat

/-- O18. `GFMUL a, b`, with `a` in bits [7:0] and `b` in bits [15:8] of the word, puts the field product of R172 in
`RESULT` and leaves everything else (R175). -/
def Obligations.GfmulGivesProduct : Prop :=
  (∀ a b : Byte, decode (0x1000#16 ++ (b ++ a)) = .ok (.gfmul a b)) ∧ ∀ (a b : Byte) (s : State), ∃ r : Byte,
    exec (.gfmul a b) s = .next { endsWith .none s with result := r.setWidth 32 }
      ∧ (a = 0#8 ∨ b = 0#8 → r = 0#8)
      ∧ ∀ i ≤ 254, ∀ j ≤ 254, gfExp i = a → gfExp j = b → r = gfExp (i + j)

/-- O19. `GFEXP e`, with `e` in bits [8:0] of the word, puts `EXP[e]` in `RESULT` and leaves everything else (R176). -/
def Obligations.GfexpGivesPower : Prop :=
  (∀ e : BitVec 9, decode (0x088000#23 ++ e) = .ok (.gfexp e)) ∧ ∀ (e : BitVec 9) (s : State),
    exec (.gfexp e) s = .next { endsWith .none s with result := (gfExp e.toNat).setWidth 32 }

/-- O20. `GFLOG a`, with `a` in bits [7:0] of the word, ends with `DOMAIN` at 0, and otherwise puts the logarithm in
`RESULT` and leaves everything else (R171, R177). -/
def Obligations.GflogGivesLogarithm : Prop :=
  (∀ a : Byte, decode (0x120000#24 ++ a) = .ok (.gflog a)) ∧ ∀ (a : Byte) (s : State),
    (a = 0#8 → exec (.gflog a) s = .next (endsWith .domain s))
      ∧ (a ≠ 0#8 → ∃ i ≤ 254, gfExp i = a
          ∧ exec (.gflog a) s = .next { endsWith .none s with result := BitVec.ofNat 32 i })

/-! ### Reed–Solomon -/

/-- O21. `RSGEN k`, with `k` in bits [7:0] of the word, leaves in `GEN` the monic polynomial `∏ (x ⊕ α^i)`, `i < k`,
lowest degree first, zeros above degree `k`, and `k` in `GENDEG`, and leaves everything else (R59, R190, R195). -/
def Obligations.RsgenLoadsGenerator : Prop :=
  (∀ k : Byte, decode (0x200000#24 ++ k) = .ok (.rsgen k)) ∧ ∀ (k : Byte) (s : State), ∃ g : Vector Byte 256,
    exec (.rsgen k) s = .next { endsWith .none s with gen := g, gendeg := k }
      ∧ g.toList.getD k.toNat 0#8 = 1#8
      ∧ (∀ j, k.toNat < j → g.toList.getD j 0#8 = 0#8)
      ∧ ∀ x : Byte, evalHigh g.toList.reverse x = rootProduct k.toNat x

/-- O22. The EC codewords of a block are `k` bytes, and the data followed by them, highest degree first, is a multiple
of `g_k`: it vanishes at `α^0, …, α^(k-1)` (R193, R194, R197). The order of the codewords is R193's convention, which
the spec marks as general knowledge (log entry 25). -/
def Obligations.EcCodewordsVanishAtRoots : Prop :=
  ∀ (data : List Byte) (k : Nat), k ≤ 255 →
    (rsEc data k).length = k ∧ ∀ i < k, evalHigh (data ++ rsEc data k) (gfExp i) = 0#8

/-- O23. `RSENC` ends with `RANGE`, then with `OVERLAP`, and otherwise writes the EC codewords of the `LEN` bytes at
`SRC` to `DST`, leaves the generator used in `GEN` and `GENDEG`, and leaves everything else. With `K = 0` no data byte
need have been written (R198, R199; log entry 5). The order of the codewords is R193's convention, marked there as
general knowledge (log entry 25). That an empty region passes the range check whatever its address is R90's sentence,
followed against the command's pseudocode: log entry 27, an inference. -/
def Obligations.RsencWritesEcCodewords : Prop :=
  ∀ s : State,
    (¬(regionFits s.src.toNat s.len.toNat ∧ regionFits s.dst.toNat s.eck.toNat) →
        exec .rsenc s = .next (endsWith .range s))
      ∧ (regionFits s.src.toNat s.len.toNat → regionFits s.dst.toNat s.eck.toNat →
          regionsMeet s.src.toNat s.len.toNat s.dst.toNat s.eck.toNat →
          exec .rsenc s = .next (endsWith .overlap s))
      ∧ (regionFits s.src.toNat s.len.toNat → regionFits s.dst.toNat s.eck.toNat →
          ¬regionsMeet s.src.toNat s.len.toNat s.dst.toNat s.eck.toNat →
          (s.eck ≠ 0#8 → bytesWritten s s.src.toNat s.len.toNat) →
          ∃ mem, exec .rsenc s
              = .next { endsWith .none s with
                  cwram := mem, gen := genFile (genPoly s.eck.toNat), gendeg := s.eck }
            ∧ (∀ j < s.eck.toNat, cellRead mem (s.dst.toNat + j)
                = (rsEc (bytesAt s s.src.toNat s.len.toNat) s.eck.toNat)[j]?)
            ∧ keptOutside s mem s.dst.toNat s.eck.toNat)

/-- O24. `RSBLK` ends with `RANGE`, then with `OVERLAP`, and otherwise writes the EC codewords of every block `b` at
`AUX + b·K`, leaves the generator used in `GEN` and `GENDEG`, and leaves everything else. With `K = 0` no data byte
need have been written (R200, R202, R199; log entry 5). Group 1 first is R200's convention, marked there as general
knowledge (log entry 25). That an empty region passes the range check whatever its address is R90's sentence, followed
against the command's pseudocode: log entry 27, an inference. -/
def Obligations.RsblkEncodesEveryBlock : Prop :=
  ∀ s : State,
    (¬(regionFits s.src.toNat (specData s) ∧ regionFits s.aux.toNat (specEc s)) →
        exec .rsblk s = .next (endsWith .range s))
      ∧ (regionFits s.src.toNat (specData s) → regionFits s.aux.toNat (specEc s) →
          regionsMeet s.src.toNat (specData s) s.aux.toNat (specEc s) →
          exec .rsblk s = .next (endsWith .overlap s))
      ∧ (regionFits s.src.toNat (specData s) → regionFits s.aux.toNat (specEc s) →
          ¬regionsMeet s.src.toNat (specData s) s.aux.toNat (specEc s) →
          (s.eck ≠ 0#8 → bytesWritten s s.src.toNat (specData s)) →
          ∃ mem, exec .rsblk s
              = .next { endsWith .none s with
                  cwram := mem, gen := genFile (genPoly s.eck.toNat), gendeg := s.eck }
            ∧ (∀ b < specBlocks s, ∀ j < s.eck.toNat,
                cellRead mem (s.aux.toNat + b * s.eck.toNat + j)
                  = (rsEc (bytesAt s (s.src.toNat + specOff s b) (specLen s b)) s.eck.toNat)[j]?)
            ∧ keptOutside s mem s.aux.toNat (specEc s))

/-- O25. `ILV`, the word 0x23000000, ends with `RANGE`, then with `OVERLAP`, and otherwise writes at `DST` the data
codewords column by column over the blocks, shorter blocks skipped once exhausted, then the EC codewords column by
column, sets `RESULT` to their number, and leaves everything else (R200, R205, R206). Group 1 first is R200's
convention, marked there as general knowledge (log entry 25). That an empty region passes the range check whatever its
address is R90's sentence, followed against the command's pseudocode: log entry 27, an inference. -/
def Obligations.IlvInterleavesColumns : Prop :=
  decode 0x23000000#32 = .ok .ilv ∧ ∀ s : State,
    (¬(regionFits s.src.toNat (specData s) ∧ regionFits s.aux.toNat (specEc s)
        ∧ regionFits s.dst.toNat (specData s + specEc s)) →
        exec .ilv s = .next (endsWith .range s))
      ∧ (regionFits s.src.toNat (specData s) → regionFits s.aux.toNat (specEc s) →
          regionFits s.dst.toNat (specData s + specEc s) →
          (regionsMeet s.dst.toNat (specData s + specEc s) s.src.toNat (specData s)
            ∨ regionsMeet s.dst.toNat (specData s + specEc s) s.aux.toNat (specEc s)) →
          exec .ilv s = .next (endsWith .overlap s))
      ∧ (regionFits s.src.toNat (specData s) → regionFits s.aux.toNat (specEc s) →
          regionFits s.dst.toNat (specData s + specEc s) →
          ¬regionsMeet s.dst.toNat (specData s + specEc s) s.src.toNat (specData s) →
          ¬regionsMeet s.dst.toNat (specData s + specEc s) s.aux.toNat (specEc s) →
          bytesWritten s s.src.toNat (specData s) → bytesWritten s s.aux.toNat (specEc s) →
          ∃ mem, exec .ilv s
              = .next { endsWith .none s with
                  cwram := mem, result := BitVec.ofNat 32 (specData s + specEc s) }
            ∧ (∀ b < specBlocks s, ∀ i < specLen s b,
                cellRead mem (s.dst.toNat + specDataPos s b i)
                  = cellRead s.cwram (s.src.toNat + specOff s b + i))
            ∧ (∀ b < specBlocks s, ∀ j < s.eck.toNat,
                cellRead mem (s.dst.toNat + specData s + j * specBlocks s + b)
                  = cellRead s.cwram (s.aux.toNat + b * s.eck.toNat + j))
            ∧ keptOutside s mem s.dst.toNat (specData s + specEc s))

/-- O26. The places that O25 names cover the stream: each of the `Dtot` data places is that of exactly one codeword of
one block (R205: the output has length `Dtot + Etot`). Group 1 first is R200's convention, marked there as general
knowledge (log entry 25). -/
def Obligations.InterleavePlacesEachCodewordOnce : Prop :=
  ∀ s : State, ∀ p < specData s, ∃ b < specBlocks s, ∃ i < specLen s b, specDataPos s b i = p
    ∧ ∀ b' < specBlocks s, ∀ i' < specLen s b', specDataPos s b' i' = p → b' = b ∧ i' = i

/-! ### Canvas and placement -/

/-- O27. `CVINIT`, the word 0x30000000, ends with `INVALID_VERSION`, or sizes the canvas by class (Normal `4V + 17`,
Micro `2V + 9`, rMQR from `CVDIM`), makes every module Light-data, enters EMPTY, clears `MASKSEL`, `BEST` and the
scores, and leaves everything else (R44, R231, R232). -/
def Obligations.CvinitSizesAndClears : Prop :=
  decode 0x30000000#32 = .ok .cvinit ∧ ∀ s : State,
    let sized (cls : CvClass) (h w : Nat) : Prop :=
      ∃ cv, exec .cvinit s = .next { endsWith .none s with
          cvH := BitVec.ofNat 8 h, cvW := BitVec.ofNat 8 w, cvClass := cls, canvas := cv, cvstate := .empty
          masksel := { mask := 0#3, valid := false }, best := { mask := 0#3, valid := false }
          scores := Vector.replicate 8 0#32 }
        ∧ ∀ r < h, ∀ c < w, cellRead cv (256 * r + c) = some { function := false, dark := false }
    (¬symOk s → exec .cvinit s = .next (endsWith .invalidVersion s))
      ∧ (symOk s → s.symClass = 0#2 → sized .normal (4 * s.symVer.toNat + 17) (4 * s.symVer.toNat + 17))
      ∧ (symOk s → s.symClass = 1#2 → sized .micro (2 * s.symVer.toNat + 9) (2 * s.symVer.toNat + 9))
      ∧ (s.symClass = 2#2 → 1 ≤ s.cvH.toNat → s.cvH.toNat ≤ 177 → 1 ≤ s.cvW.toNat → s.cvW.toNat ≤ 177 →
          sized .rmqr s.cvH.toNat s.cvW.toNat)
      ∧ (s.symClass = 2#2 →
          ¬(1 ≤ s.cvH.toNat ∧ s.cvH.toNat ≤ 177 ∧ 1 ≤ s.cvW.toNat ∧ s.cvW.toNat ≤ 177) →
          exec .cvinit s = .next (endsWith .invalidVersion s))

/-- O28. For odd `W` and `T < W` the path visits each cell of every column except `T` exactly once, and no other cell
(R242). -/
def Obligations.PathVisitsEachCellOnce : Prop :=
  ∀ h w t : Nat, w % 2 = 1 → t < w →
    (path h w t).Nodup
      ∧ ∀ r c, (r, c) ∈ path h w t ↔ r < h ∧ c < w ∧ c ≠ t

/-- O29. Entry `2·H·s + 2·i + j` of the path is in strip `s`, at its `i`-th row (upward in even strips, downward in odd
ones), in the right cell for `j = 0` and the left cell for `j = 1`, and the path has no other entries (R242). -/
def Obligations.PathZigZags : Prop :=
  ∀ h w t : Nat, w % 2 = 1 → t < w →
    (path h w t).length = h * (w - 1)
      ∧ ∀ s < (w - 1) / 2, ∀ i < h, ∀ j < 2,
          (path h w t)[2 * h * s + 2 * i + j]?
            = some (if s % 2 = 0 then h - 1 - i else i, specPathColumn w t (2 * s + j))

/-- O30. On a Normal or Micro canvas in EMPTY whose path modules are written, `PLACE rem` ends with `PLACE_MISMATCH`
where the number of data modules on the path differs from the stream's length, and otherwise puts stream bit `j` in the
`j`-th data module of the path, enters PLACED, sets `RESULT` to the number placed, and leaves everything else (R240 to
R243; that the mismatch needs no codeword read is log entry 5). That bit 1 is a dark module is R84's convention, marked
there as general knowledge (log entry 25). For a width without its timing column that is odd the path leaves out the
last column, log entry 13, an inference; that an empty region passes the range check whatever its address is R90's
sentence, followed against the command's pseudocode: log entry 27, an inference. -/
def Obligations.PlacePlacesStream : Prop :=
  ∀ (rem : BitVec 8) (s : State) (t : Nat),
    (s.cvClass = .normal ∧ t = 6) ∨ (s.cvClass = .micro ∧ t = 0) →
    s.cvstate = .empty → regionFits s.src.toNat s.len.toNat →
    (∀ x ∈ path s.cvH.toNat s.cvW.toNat t, (cellRead s.canvas (256 * x.1 + x.2)).isSome = true) →
    let free := (path s.cvH.toNat s.cvW.toNat t).filter (isDataModule s)
    let n := 8 * s.len.toNat - (if s.half.toNat < s.len.toNat then 4 else 0) + rem.toNat
    (free.length ≠ n → exec (.place rem) s = .next (endsWith .placeMismatch s))
      ∧ (free.length = n → bytesWritten s s.src.toNat s.len.toNat →
          ∃ cv, exec (.place rem) s = .next { endsWith .none s with
              canvas := cv, cvstate := .placed, result := BitVec.ofNat 32 free.length }
            ∧ (∀ j x, free[j]? = some x →
                cellRead cv (256 * x.1 + x.2) = some { function := false, dark := specStreamBit s j })
            ∧ ∀ k, (∀ x ∈ free, k ≠ 256 * x.1 + x.2) → cellRead cv k = cellRead s.canvas k)

/-- O31. `PLACE` ends with `UNSUPPORTED` on an rMQR canvas, then with `SEQUENCE` outside EMPTY, then with `RANGE` past
CWRAM (R230, R243, R322). -/
def Obligations.PlaceErrorOrder : Prop :=
  ∀ (rem : BitVec 8) (s : State),
    (s.cvClass = .rmqr → exec (.place rem) s = .next (endsWith .unsupported s))
      ∧ (s.cvClass ≠ .rmqr → s.cvstate ≠ .empty → exec (.place rem) s = .next (endsWith .sequence s))
      ∧ (s.cvClass ≠ .rmqr → s.cvstate = .empty → ¬regionFits s.src.toNat s.len.toNat →
          exec (.place rem) s = .next (endsWith .range s))

/-! ### Masks and scores -/

/-- O32. `MASK m` toggles the colour of exactly the data modules where the predicate of `m` holds, records `m` in
`MASKSEL`, enters MASKED, and leaves everything else (R250 to R252). -/
def Obligations.MaskTogglesDataModules : Prop :=
  ∀ (m : BitVec 3) (s : State), maskAllowed s → isCandidate s.cvClass m → canvasWritten s →
    ∃ cv, exec (.mask m) s = .next { endsWith .none s with
        canvas := cv, masksel := { mask := m, valid := true }, cvstate := .masked }
      ∧ (∀ r < s.cvH.toNat, ∀ c < s.cvW.toNat,
          cellRead cv (256 * r + c)
            = (cellRead s.canvas (256 * r + c)).map (specMasked s.cvClass m.toNat r c))
      ∧ ∀ k, (∀ r < s.cvH.toNat, ∀ c < s.cvW.toNat, k ≠ 256 * r + c) → cellRead cv k = cellRead s.canvas k

/-- O33. `MASK`, `SCORE`, `SCOREALL` and `MASKBEST` end with `UNSUPPORTED` on an rMQR canvas, then with `SEQUENCE` in
NONE or MASKED; `MASK` and `SCORE` then end with `RANGE` for a Micro index above 3 (R251, R262, R264, R267, R270). -/
def Obligations.MaskAndScoreErrorOrder : Prop :=
  ∀ (m : BitVec 3) (s : State),
    (s.cvClass = .rmqr → ∀ i ∈ [Instr.mask m, .score m, .scoreall, .maskbest],
        exec i s = .next (endsWith .unsupported s))
      ∧ (s.cvClass ≠ .rmqr → (s.cvstate = .none ∨ s.cvstate = .masked) →
          ∀ i ∈ [Instr.mask m, .score m, .scoreall, .maskbest], exec i s = .next (endsWith .sequence s))
      ∧ (maskAllowed s → ¬isCandidate s.cvClass m →
          ∀ i ∈ [Instr.mask m, .score m], exec i s = .next (endsWith .range s))

/-- O34. `SCORE m` on a Normal canvas with modules puts in `SCOREm` and `RESULT` the penalty `P1 + P2 + P3 + P4` of the
canvas as if mask `m` had been applied, and leaves everything else (R255 to R260, R262). -/
def Obligations.ScoreGivesPenalty : Prop :=
  ∀ (m : BitVec 3) (s : State), s.cvClass = .normal → maskAllowed s → canvasWritten s →
    1 ≤ s.cvH.toNat → 1 ≤ s.cvW.toNat →
    let v := BitVec.ofNat 32 (specPenalty s.cvH.toNat s.cvW.toNat (specColour s m.toNat))
    exec (.score m) s = .next { endsWith .none s with scores := s.scores.set m.toNat v m.isLt, result := v }

/-- O35. `SCORE m` on a Micro canvas with modules puts in `SCOREm` and `RESULT` the Micro score `sum1 + 16·sum2` of the
canvas as if mask `m` had been applied, and leaves everything else (R255, R261, R262). -/
def Obligations.ScoreGivesMicroScore : Prop :=
  ∀ (m : BitVec 3) (s : State), s.cvClass = .micro → maskAllowed s → isCandidate s.cvClass m → canvasWritten s →
    1 ≤ s.cvH.toNat → 1 ≤ s.cvW.toNat →
    let v := BitVec.ofNat 32 (specMicro s.cvH.toNat s.cvW.toNat (specColour s m.toNat))
    exec (.score m) s = .next { endsWith .none s with scores := s.scores.set m.toNat v m.isLt, result := v }

/-- O36. The score that `SCORE m` puts in `RESULT` and `SCOREm` does not wrap: as a number it is the Normal penalty,
below 2,500,000, on a canvas of at most 177 × 177 modules, and the Micro score, at most 272, on one of at most 17 × 17
(R268). On a canvas without modules the score is a free value within these bounds (log entry 12, the model's
choice). -/
def Obligations.ScoresDoNotWrap : Prop :=
  ∀ (m : BitVec 3) (s : State), maskAllowed s → isCandidate s.cvClass m → canvasWritten s →
    (s.cvClass = .normal → s.cvH.toNat ≤ 177 → s.cvW.toNat ≤ 177 →
        ∃ t, exec (.score m) s = .next t ∧ t.scores[m.toNat]'m.isLt = t.result
          ∧ (1 ≤ s.cvH.toNat → 1 ≤ s.cvW.toNat →
              t.result.toNat = specPenalty s.cvH.toNat s.cvW.toNat (specColour s m.toNat))
          ∧ t.result.toNat < 2500000)
      ∧ (s.cvClass = .micro → s.cvH.toNat ≤ 17 → s.cvW.toNat ≤ 17 →
        ∃ t, exec (.score m) s = .next t ∧ t.scores[m.toNat]'m.isLt = t.result
          ∧ (1 ≤ s.cvH.toNat → 1 ≤ s.cvW.toNat →
              t.result.toNat = specMicro s.cvH.toNat s.cvW.toNat (specColour s m.toNat))
          ∧ t.result.toNat ≤ 272)

/-- O37. `SCOREALL` puts in every candidate's register what `SCORE` of it gives, selects in `BEST` and `RESULT` the
least index of minimum penalty (Normal) or of maximum score (Micro), and leaves everything else, on a Micro canvas
`SCORE4` to `SCORE7` too; a canvas with no data module scores the same under every mask and selects mask 0 (R54, R262,
R263, R264, R266). On a canvas without modules the scores are free values (log entry 12). -/
def Obligations.ScoreallSelectsBest : Prop :=
  ∀ s : State, maskAllowed s → canvasWritten s →
    ∃ (sc : Vector Word 8) (b : BitVec 3),
      exec .scoreall s = .next { endsWith .none s with
          scores := sc, best := { mask := b, valid := true }, result := b.setWidth 32 }
      ∧ (∀ m : BitVec 3, isCandidate s.cvClass m →
          exec (.score m) s = .next { endsWith .none s with
            scores := s.scores.set m.toNat (sc[m.toNat]'m.isLt) m.isLt, result := sc[m.toNat]'m.isLt })
      ∧ (∀ m : BitVec 3, ¬isCandidate s.cvClass m → sc[m.toNat]'m.isLt = s.scores[m.toNat]'m.isLt)
      ∧ isCandidate s.cvClass b
      ∧ (∀ m : BitVec 3, isCandidate s.cvClass m →
          if s.cvClass = .normal then
            sc[b.toNat]'b.isLt ≤ sc[m.toNat]'m.isLt ∧ (m < b → sc[b.toNat]'b.isLt < sc[m.toNat]'m.isLt)
          else sc[m.toNat]'m.isLt ≤ sc[b.toNat]'b.isLt ∧ (m < b → sc[m.toNat]'m.isLt < sc[b.toNat]'b.isLt))
      ∧ ((∀ r < s.cvH.toNat, ∀ c < s.cvW.toNat, isDataModule s (r, c) = false) →
          b = 0#3 ∧ ∀ m : BitVec 3, isCandidate s.cvClass m → sc[m.toNat]'m.isLt = sc[0])

/-- O38. `MASKBEST` is the writes of `SCOREALL` and then the effect of `MASK b` for the selected `b`, in one step, the
scores taken on the unmasked canvas (R267). On a canvas without modules the scores are free values (log entry 12, the
model's choice). -/
def Obligations.MaskbestScoresThenMasks : Prop :=
  ∀ s : State, maskAllowed s → canvasWritten s →
    ∃ u v, exec .scoreall s = .next u ∧ exec (.mask u.best.mask) s = .next v
      ∧ exec .maskbest s = .next { u with
          canvas := v.canvas, masksel := { mask := u.best.mask, valid := true }, cvstate := .masked }

/-! ### BCH codes -/

/-- O39. `FMTENC seed`, with `seed` in bits [4:0] of the word, ends with `INVALID_VERSION`, then with `UNSUPPORTED` for
rMQR, and otherwise puts in `RESULT` the seed above the remainder of `seed · x^10` by 0x537, exclusive-or 0x5412
(Normal) or 0x4445 (Micro), and leaves everything else (R290 to R292). That the appended bits are the remainder is
R290's reading, marked there as general knowledge (log entry 25). -/
def Obligations.FmtencGivesFormatWord : Prop :=
  (∀ seed : BitVec 5, decode (0x2000000#27 ++ seed) = .ok (.fmtenc seed)) ∧ ∀ (seed : BitVec 5) (s : State),
    (¬symOk s → exec (.fmtenc seed) s = .next (endsWith .invalidVersion s))
      ∧ (s.symClass = 2#2 → exec (.fmtenc seed) s = .next (endsWith .unsupported s))
      ∧ (symOk s → s.symClass ≠ 2#2 → ∃ q rem : Nat, rem < 2 ^ 10
          ∧ clMul q 0x537 ^^^ rem = seed.toNat * 2 ^ 10
          ∧ exec (.fmtenc seed) s = .next { endsWith .none s with
              result := BitVec.ofNat 32
                ((seed.toNat * 2 ^ 10 + rem) ^^^ (if s.symClass = 0#2 then 0x5412 else 0x4445)) })

/-- O40. `VERENC v`, with `v` in bits [5:0] of the word, puts in `RESULT` the version above the remainder of `v · x^12`
by 0x1F25, for every 6-bit `v`, and leaves everything else (R290, R294, R295). That the appended bits are the remainder
is R290's reading, marked there as general knowledge (log entry 25). -/
def Obligations.VerencGivesVersionWord : Prop :=
  (∀ v : BitVec 6, decode (0x1040000#26 ++ v) = .ok (.verenc v))
    ∧ ∀ (v : BitVec 6) (s : State), ∃ q rem : Nat, rem < 2 ^ 12
    ∧ clMul q 0x1F25 ^^^ rem = v.toNat * 2 ^ 12
    ∧ exec (.verenc v) s = .next { endsWith .none s with result := BitVec.ofNat 32 (v.toNat * 2 ^ 12 + rem) }

/-! ### The register window -/

/-- O41. While idle a read at each offset of R32 but `STATUS` (O42) and the port (O50) returns the fields that R32 lays
there, 0 in the reserved bits, and changes nothing else (R32, R93; the word a read returns is the model's field
`rdata`, log entry 7). -/
def Obligations.IdleRegisterReads : Prop :=
  ∀ s : State, s.busy = false →
    let reads (offset value : Nat) : Prop :=
      hostAccess (.read offset 4) s = .next { s with rdata := BitVec.ofNat 32 value }
    reads 0x00 0x51520007
      ∧ reads 0x04 (2 * s.irqen.toNat)
      ∧ reads 0x0C s.cmd.toNat
      ∧ reads 0x10 s.src.toNat ∧ reads 0x14 s.dst.toNat ∧ reads 0x18 s.aux.toNat ∧ reads 0x1C s.len.toNat
      ∧ reads 0x20 (s.g1.toNat + 2 ^ 8 * s.n1.toNat + 2 ^ 16 * s.g2.toNat + 2 ^ 24 * s.n2.toNat)
      ∧ reads 0x24 s.eck.toNat ∧ reads 0x28 s.cap.toNat
      ∧ reads 0x2C (s.symClass.toNat + 2 ^ 8 * s.symVer.toNat)
      ∧ reads 0x30 (s.cvH.toNat + 2 ^ 8 * s.cvW.toNat
          + 2 ^ 16 * (match s.cvClass with | .normal => 0 | .micro => 1 | .rmqr => 2))
      ∧ reads 0x34 s.half.toNat ∧ reads 0x38 s.result.toNat
      ∧ (s.bb.length ≤ 32768 → reads 0x3C s.bb.length)
      ∧ reads 0x40 s.gendeg.toNat
      ∧ reads 0x44 (s.masksel.mask.toNat + 2 ^ 7 * s.masksel.valid.toNat)
      ∧ reads 0x48 (s.best.mask.toNat + 2 ^ 7 * s.best.valid.toNat)
      ∧ reads 0x4C (s.maddr.toNat + 2 ^ 16 * s.mspace.toNat)
      ∧ ∀ m : Fin 8, reads (0x60 + 4 * m.val) s.scores[m].toNat

/-- O42. A read of `STATUS` at 0x08, busy or idle, returns a word with the flags at the bits of R32, the error codes
numbered as R321 numbers them, the canvas states as R63 does, `ERR` exactly where the code is not 0, and 0 in the
reserved bits; it changes nothing else (the word a read returns is the model's field `rdata`, log entry 7). -/
def Obligations.StatusFieldsReadBack : Prop :=
  ∀ s : State, ∃ v : Word, hostAccess (.read 0x08 4) s = .next { s with rdata := v }
    ∧ v.getLsbD 0 = s.busy ∧ v.getLsbD 1 = s.done ∧ v.getLsbD 3 = s.haz ∧ v.getLsbD 4 = s.aerr
    ∧ (v.getLsbD 2 = true ↔ s.errcode ≠ .none)
    ∧ (∀ x ∈ [(ErrCode.none, 0), (.illegal, 1), (.dataTooLong, 2), (.invalidVersion, 3), (.range, 4), (.overlap, 5),
          (.domain, 6), (.unsupported, 7), (.sequence, 8), (.placeMismatch, 9)],
        s.errcode = x.1 → (v.extractLsb' 8 4).toNat = x.2)
    ∧ (∀ x ∈ [(CvState.none, 0), (.empty, 1), (.placed, 2), (.masked, 3)],
        s.cvstate = x.1 → (v.extractLsb' 12 2).toNat = x.2)
    ∧ v.extractLsb' 5 3 = 0#3 ∧ v.extractLsb' 14 18 = 0#18

/-- O43. A write at the offset of an operand register or `MADDR` while idle stores the fields that R32 lays there,
`min(v, BB_MAX_BITS)` in `CAP`, and changes nothing else, `CVCLASS` neither; a write of `CTRL` with `SRST` = 0, busy or
idle, stores `IRQEN` and changes nothing else (R32, R34, R43, R93, R372). What a module outside a smaller `CVDIM` then
holds is log entry 28, the model's choice. -/
def Obligations.RegisterWritesStoreFields : Prop :=
  ∀ (w : Word) (s : State),
    (w.getLsbD 0 = false → hostAccess (.write 0x04 4 w) s = .next { s with irqen := w.getLsbD 1 })
      ∧ (s.busy = false →
        let writes (offset : Nat) (t : State) : Prop := hostAccess (.write offset 4 w) s = .next t
        writes 0x10 { s with src := w.extractLsb' 0 16 } ∧ writes 0x14 { s with dst := w.extractLsb' 0 16 }
          ∧ writes 0x18 { s with aux := w.extractLsb' 0 16 } ∧ writes 0x1C { s with len := w.extractLsb' 0 16 }
          ∧ writes 0x20 { s with
              g1 := w.extractLsb' 0 8, n1 := w.extractLsb' 8 8
              g2 := w.extractLsb' 16 8, n2 := w.extractLsb' 24 8 }
          ∧ writes 0x24 { s with eck := w.extractLsb' 0 8 }
          ∧ (∃ c : Half, writes 0x28 { s with cap := c } ∧ c.toNat = min (w.extractLsb' 0 16).toNat 32768)
          ∧ writes 0x2C { s with symClass := w.extractLsb' 0 2, symVer := w.extractLsb' 8 6 }
          ∧ writes 0x30 { s with cvH := w.extractLsb' 0 8, cvW := w.extractLsb' 8 8 }
          ∧ writes 0x34 { s with half := w.extractLsb' 0 16 }
          ∧ writes 0x4C { s with maddr := w.extractLsb' 0 16, mspace := w.extractLsb' 16 2 })

/-- O44. A `CMD` write while idle latches the word, sets `BUSY`, clears `DONE` and `ERRCODE`; while busy it is refused
and sets `HAZ` only (R36, R372). -/
def Obligations.CmdWriteIssues : Prop :=
  ∀ (w : Word) (s : State),
    (s.busy = false → hostAccess (.write 0x0C 4 w) s
        = .next { s with cmd := w, busy := true, done := false, errcode := .none })
      ∧ (s.busy = true → hostAccess (.write 0x0C 4 w) s = .next { s with haz := true })

/-- O45. A write to `STATUS` clears `DONE`, `HAZ` and `AERR` exactly where the written bit is 1, busy or idle, and
changes nothing else (R35). -/
def Obligations.StatusWriteClears : Prop :=
  ∀ (w : Word) (s : State), ∃ t, hostAccess (.write 0x08 4 w) s = .next t
    ∧ t = { s with done := t.done, haz := t.haz, aerr := t.aerr }
    ∧ (t.done = true ↔ s.done = true ∧ w.getLsbD 1 = false)
    ∧ (t.haz = true ↔ s.haz = true ∧ w.getLsbD 3 = false)
    ∧ (t.aerr = true ↔ s.aerr = true ∧ w.getLsbD 4 = false)

/-- O46. A reserved offset reads 0 and ignores writes, and both set `AERR` (R55). -/
def Obligations.ReservedOffsetsSetAerr : Prop :=
  ∀ (offset : Nat) (w : Word) (s : State),
    offset % 4 = 0 → (offset = 0x54 ∨ offset = 0x58 ∨ offset = 0x5C ∨ (0x80 ≤ offset ∧ offset ≤ 0xFC)) →
    hostAccess (.read offset 4) s = .next { s with rdata := 0#32, aerr := true }
      ∧ hostAccess (.write offset 4 w) s = .next { s with aerr := true }

/-- O47. A write to a read-only register (`ID`, `RESULT`, `BBLEN`, `GENDEG`, `MASKSEL`, `BEST`, `SCOREm`, by their
offsets) is ignored and sets `AERR`, busy or idle (R56, R372). -/
def Obligations.ReadOnlyWritesSetAerr : Prop :=
  ∀ (w : Word) (s : State),
    (∀ m : Fin 8, hostAccess (.write (0x60 + 4 * m.val) 4 w) s = .next { s with aerr := true })
      ∧ ∀ offset ∈ [0x00, 0x38, 0x3C, 0x40, 0x44, 0x48],
          hostAccess (.write offset 4 w) s = .next { s with aerr := true }

/-- O48. Accesses while `BUSY = 1` (R372), by offset: writes to operand registers, `MADDR` and the port are ignored and
set `HAZ`; reads of command-written registers return a free value and set no flag; a read of the port returns a free
value, sets `HAZ` and does not advance; the other registers read what they read while idle. A statement about the free
value (log entry 6, the model's form of R372's draw) holds for every one. -/
def Obligations.BusyAccesses : Prop :=
  ∀ (w : Word) (s : State), s.busy = true →
    let drawn : State := { s with rdata := Config.busyRead s.draws, draws := s.draws + 1 }
    (∀ offset ∈ [0x10, 0x14, 0x18, 0x1C, 0x20, 0x24, 0x28, 0x2C, 0x30, 0x34, 0x4C, 0x50],
        hostAccess (.write offset 4 w) s = .next { s with haz := true })
      ∧ hostAccess (.read 0x50 4) s = .next { drawn with haz := true }
      ∧ (∀ offset ∈ [0x30, 0x38, 0x3C, 0x40, 0x44, 0x48], hostAccess (.read offset 4) s = .next drawn)
      ∧ (∀ m : Fin 8, hostAccess (.read (0x60 + 4 * m.val) 4) s = .next drawn)
      ∧ ∀ offset ∈ [0x00, 0x04, 0x0C, 0x10, 0x14, 0x18, 0x1C, 0x20, 0x24, 0x28, 0x2C, 0x34, 0x4C],
          ∃ v : Word, hostAccess (.read offset 4) s = .next { s with rdata := v }
            ∧ hostAccess (.read offset 4) { s with busy := false } = .next { s with busy := false, rdata := v }

/-- O49. A write to the port while idle stores the element of CWRAM or the canvas at a valid address, else sets `AERR`,
and `MADDR.ADDR` advances modulo 2^16 either way (R85 to R88). -/
def Obligations.PortWrites : Prop :=
  ∀ (w : Word) (s : State), s.busy = false →
    ∃ t, hostAccess (.write 0x50 4 w) s = .next t
      ∧ t = { s with cwram := t.cwram, canvas := t.canvas, aerr := t.aerr, maddr := t.maddr }
      ∧ t.maddr.toNat = (s.maddr.toNat + 1) % 65536
      ∧ (if s.mspace = 0#2 ∧ s.maddr.toNat < 8192 then
          t.aerr = s.aerr ∧ t.canvas = s.canvas
            ∧ ∀ x, cellRead t.cwram x
                = if x = s.maddr.toNat then some (w.extractLsb' 0 8) else cellRead s.cwram x
        else if s.mspace = 1#2 ∧ s.maddr.toNat / 256 < s.cvH.toNat ∧ s.maddr.toNat % 256 < s.cvW.toNat then
          t.aerr = s.aerr ∧ t.cwram = s.cwram
            ∧ ∀ x, cellRead t.canvas x
                = if x = s.maddr.toNat then some { function := w.getLsbD 1, dark := w.getLsbD 0 }
                  else cellRead s.canvas x
        else t.aerr = true ∧ t.cwram = s.cwram ∧ t.canvas = s.canvas)

/-- O50. A read of the port while idle returns the written element, zero-extended, at a valid address, else 0 with
`AERR`, and `MADDR.ADDR` advances modulo 2^16; nothing else changes (R85 to R88, R140). An unwritten element stops the
model by name (R101). -/
def Obligations.PortReads : Prop :=
  ∀ s : State, s.busy = false →
    let returns (v : Word) : Prop := hostAccess (.read 0x50 4) s = .next { s with rdata := v, maddr := s.maddr + 1#16 }
    let refusedAddress : Prop :=
      hostAccess (.read 0x50 4) s = .next { s with rdata := 0#32, aerr := true, maddr := s.maddr + 1#16 }
    (s.mspace = 0#2 → s.maddr.toNat < 8192 → match cellRead s.cwram s.maddr.toNat with
        | some b => returns (b.setWidth 32)
        | none => hostAccess (.read 0x50 4) s = .fault (.unwrittenByte s.maddr.toNat))
      ∧ (s.mspace = 0#2 → 8192 ≤ s.maddr.toNat → refusedAddress)
      ∧ (s.mspace = 1#2 → s.maddr.toNat / 256 < s.cvH.toNat → s.maddr.toNat % 256 < s.cvW.toNat →
          match cellRead s.canvas s.maddr.toNat with
          | some v => returns (BitVec.ofNat 32 (2 * v.function.toNat + v.dark.toNat))
          | none => hostAccess (.read 0x50 4) s
              = .fault (.unwrittenModule (s.maddr.toNat / 256) (s.maddr.toNat % 256)))
      ∧ (s.mspace = 1#2 → ¬(s.maddr.toNat / 256 < s.cvH.toNat ∧ s.maddr.toNat % 256 < s.cvW.toNat) →
          refusedAddress)
      ∧ (s.mspace = 2#2 → s.maddr.toNat ≤ 255 → returns ((s.gen.toList.getD s.maddr.toNat 0#8).setWidth 32))
      ∧ (s.mspace = 2#2 → 255 < s.maddr.toNat → refusedAddress)
      ∧ (s.mspace = 3#2 → s.maddr.toNat < 4096 → ∃ b : Byte, returns (b.setWidth 32)
          ∧ ∀ j < 8, b.getLsbD (7 - j) = s.bb.getD (8 * s.maddr.toNat + j) false)
      ∧ (s.mspace = 3#2 → 4096 ≤ s.maddr.toNat → refusedAddress)

/-- O51. An access that is not an aligned 32-bit word, or outside the window, is refused by name (R81, R327). -/
def Obligations.MalformedAccessesRefused : Prop :=
  ∀ (offset width : Nat) (w : Word) (s : State),
    (256 ≤ offset → hostAccess (.read offset width) s = .refused (.outsideWindow offset)
        ∧ hostAccess (.write offset width w) s = .refused (.outsideWindow offset))
      ∧ (offset < 256 → (width ≠ 4 ∨ offset % 4 ≠ 0) →
          hostAccess (.read offset width) s = .refused (.notAlignedWord offset width)
            ∧ hostAccess (.write offset width w) s = .refused (.notAlignedWord offset width))

/-- O52. A soft reset, busy or idle, puts every register and all non-memory state at its reset value; the memories keep
their contents, except that the region a command in flight would write becomes unwritten (R34, R362; that the region
does not depend on whether the command would end with an error is log entry 11). That the event list, the word last
read and the counter of draws, which are the model's own, stay is its choice, log entry 21. -/
def Obligations.SoftResetAbortsAndClears : Prop :=
  ∀ (w : Word) (s : State), w.getLsbD 0 = true →
    ∃ t, hostAccess (.write 0x04 4 w) s = .next t
      ∧ t = { State.reset with
          cwram := t.cwram, canvas := t.canvas, events := s.events, rdata := s.rdata, draws := s.draws }
      ∧ (∀ x, (s.busy = true ∧ abortsByte s x → cellRead t.cwram x = none)
          ∧ (¬(s.busy = true ∧ abortsByte s x) → cellRead t.cwram x = cellRead s.cwram x))
      ∧ (s.busy = true ∧ abortsCanvas s → t.canvas = [])
      ∧ (¬(s.busy = true ∧ abortsCanvas s) → t.canvas = s.canvas)

/-- O53. After power-on reset every piece of non-memory state has the value of R363, field by field: `ID` the constant,
`CAP` `BB_MAX_BITS`, `HALF` 0xFFFF, `BB` empty, `GEN` holding `g_0`, every other register 0, nothing in flight and the
interrupt line 0 (O41 and O42 say how the registers read these fields); and no memory cell is written (R361). -/
def Obligations.ResetValues : Prop :=
  let s := State.reset
  regValue .id s = 0x51520007#32 ∧ s.irqen = false
    ∧ s.busy = false ∧ s.done = false ∧ s.haz = false ∧ s.aerr = false ∧ s.errcode = .none ∧ s.cvstate = .none
    ∧ s.cmd = 0#32 ∧ s.src = 0#16 ∧ s.dst = 0#16 ∧ s.aux = 0#16 ∧ s.len = 0#16
    ∧ s.g1 = 0#8 ∧ s.n1 = 0#8 ∧ s.g2 = 0#8 ∧ s.n2 = 0#8 ∧ s.eck = 0#8
    ∧ s.cap = 0x8000#16 ∧ s.symClass = 0#2 ∧ s.symVer = 0#6
    ∧ s.cvH = 0#8 ∧ s.cvW = 0#8 ∧ s.cvClass = .normal ∧ s.half = 0xFFFF#16
    ∧ s.result = 0#32 ∧ s.gendeg = 0#8
    ∧ s.masksel = { mask := 0#3, valid := false } ∧ s.best = { mask := 0#3, valid := false }
    ∧ s.maddr = 0#16 ∧ s.mspace = 0#2 ∧ s.scores.toList = List.replicate 8 0#32
    ∧ s.bb = [] ∧ s.gen.toList = 1#8 :: List.replicate 255 0#8
    ∧ irq s = false ∧ s.cwram = [] ∧ s.canvas = []

/-- O54. The interrupt line is `DONE` and `IRQEN`, so every completion raises it when it is enabled, an accepted `CMD`
write lowers it, and a `CTRL` write of `IRQEN = 0` lowers it (R330). -/
def Obligations.InterruptFollowsDone : Prop :=
  (∀ s : State, irq s = true ↔ s.done = true ∧ s.irqen = true)
    ∧ (∀ (i : Instr) (s t : State), exec i s = .next t → irq t = s.irqen)
    ∧ (∀ (w : Word) (s t : State), s.busy = false → hostAccess (.write 0x0C 4 w) s = .next t → irq t = false)
    ∧ ∀ (w : Word) (s t : State), w.getLsbD 1 = false → hostAccess (.write 0x04 4 w) s = .next t → irq t = false

/-! ### The whole machine -/

/-- O55. Every step keeps the invariant: canonical memories, the bounds of `BB` and `CAP`, `GEN` the generator of degree
`GENDEG`, no completion shown while busy, `MASKSEL.VALID` exactly on a masked canvas, class Normal before the first
`CVINIT`. -/
def Obligations.StepKeepsInvariant : Prop := ∀ s t : State, MachineInv s → step s = .next t → MachineInv t

/-- O56. The state after reset meets the invariant. It is also a clean entry of R365 for the program that makes no
access, whose run ends there, cleanly (R342): these two clauses rest on the model's choices that the reset state places
no event, log entry 1, and that a program is the list of events, log entry 3. -/
def Obligations.ResetMeetsInvariant : Prop :=
  MachineInv State.reset ∧ cleanEntry [] [] State.reset ∧ cleanRun State.reset State.reset

/-- O57. A command that ends with an error has changed nothing but the completion fields (R324). -/
def Obligations.ErrorsChangeNothing : Prop :=
  ∀ (i : Instr) (s t : State), exec i s = .next t → t.errcode ≠ .none → t = endsWith t.errcode s

/-- O58. A command completes unless it consumes an unwritten cell: it is never refused; its step clears `BUSY` and sets
`DONE`; where every CWRAM byte and canvas module that it consumes is written it has a next state; it stops the model
only at an unwritten cell that it consumes, a byte of CWRAM in a region it reads or a module of the canvas; and the
commands that consume none always have a next state (R101, R320, R327; that reading an unwritten cell stops the model
is log entry 4, and which cells a command consumes is log entry 5). -/
def Obligations.CommandsComplete : Prop :=
  ∀ (i : Instr) (s : State),
    (∀ t, exec i s = .next t → t.busy = false ∧ t.done = true)
      ∧ (∀ r, exec i s ≠ .refused r)
      ∧ ((∀ x, consumesByte i s x → (cellRead s.cwram x).isSome = true) →
          (∀ r c, consumesModule i s r c → (cellRead s.canvas (256 * r + c)).isSome = true) →
          ∃ t, exec i s = .next t)
      ∧ (∀ f, exec i s = .fault f →
          (∃ x, f = .unwrittenByte x ∧ consumesByte i s x ∧ x < 8192 ∧ cellRead s.cwram x = none)
            ∨ ∃ r c, f = .unwrittenModule r c ∧ consumesModule i s r c
                ∧ cellRead s.canvas (256 * r + c) = none)
      ∧ (mnemonicOfInstr i ∉ [Mnemonic.bbappb, .rsenc, .rsblk, .ilv, .place, .mask, .score, .scoreall, .maskbest] →
          ∃ t, exec i s = .next t)

/-- O59. No command writes an operand register, the issue and control state or the sticky flags, and none but `CVINIT`
writes `CVDIM`; only the commands R47 names write `RESULT`, and only without error; CWRAM, `GEN` and `BB` are written
only by the commands R58, R59 and 40_bitbuffer name, the canvas by `CVINIT`, `PLACE`, `MASK` and `MASKBEST`, `MASKSEL`
by `CVINIT`, `MASK` and `MASKBEST`, `BEST` by `CVINIT`, `SCOREALL` and `MASKBEST`, `SCOREm` by `CVINIT` and the scoring
commands, `SCORE m` writing no other (R47, R50, R51, R54, R57 to R61). The model's own fields stay. -/
def Obligations.CommandsKeepOperands : Prop :=
  ∀ (i : Instr) (s t : State), exec i s = .next t →
    operandsKept s t
      ∧ t.cmd = s.cmd ∧ t.irqen = s.irqen ∧ t.haz = s.haz ∧ t.aerr = s.aerr
      ∧ t.maddr = s.maddr ∧ t.mspace = s.mspace
      ∧ t.events = s.events ∧ t.rdata = s.rdata ∧ t.draws = s.draws
      ∧ (i ≠ .cvinit → t.cvH = s.cvH ∧ t.cvW = s.cvW ∧ t.cvClass = s.cvClass)
      ∧ (mnemonicOfInstr i ∉ [Mnemonic.gfmul, .gfexp, .gflog, .bbst, .ilv, .place, .fmtenc, .verenc, .score,
            .scoreall, .maskbest] → t.result = s.result)
      ∧ (t.errcode ≠ .none → t.result = s.result)
      ∧ (mnemonicOfInstr i ∉ [Mnemonic.bbst, .rsenc, .rsblk, .ilv] → t.cwram = s.cwram)
      ∧ (mnemonicOfInstr i ∉ [Mnemonic.rsgen, .rsenc, .rsblk] → t.gen = s.gen ∧ t.gendeg = s.gendeg)
      ∧ (mnemonicOfInstr i ∉ [Mnemonic.bbclr, .bbapp, .bbappb, .bbpad] → t.bb = s.bb)
      ∧ (mnemonicOfInstr i ∉ [Mnemonic.cvinit, .place, .mask, .maskbest] → t.canvas = s.canvas)
      ∧ (mnemonicOfInstr i ∉ [Mnemonic.cvinit, .mask, .maskbest] → t.masksel = s.masksel)
      ∧ (mnemonicOfInstr i ∉ [Mnemonic.cvinit, .scoreall, .maskbest] → t.best = s.best)
      ∧ (mnemonicOfInstr i ∉ [Mnemonic.cvinit, .score, .scoreall, .maskbest] → t.scores = s.scores)
      ∧ ∀ (m : BitVec 3) (n : Fin 8), i = .score m → n.val ≠ m.toNat → t.scores[n] = s.scores[n]

/-- O60. `CVSTATE` changes only as the table of R230 says: `CVINIT` to EMPTY; `PLACE` from EMPTY to PLACED; `MASK` and
`MASKBEST` from EMPTY or PLACED to MASKED; host accesses other than a soft reset leave it. -/
def Obligations.CanvasStateTable : Prop :=
  (∀ (i : Instr) (s t : State), exec i s = .next t → t.cvstate ≠ s.cvstate →
    (i = .cvinit ∧ t.cvstate = .empty)
      ∨ ((∃ rem, i = .place rem) ∧ s.cvstate = .empty ∧ t.cvstate = .placed)
      ∨ (((∃ m, i = .mask m) ∨ i = .maskbest) ∧ (s.cvstate = .empty ∨ s.cvstate = .placed)
          ∧ t.cvstate = .masked))
  ∧ (∀ (a : Access) (s t : State), hostAccess a s = .next t →
      (∀ width w, a = .write 0x04 width w → w.getLsbD 0 = false) → t.cvstate = s.cvstate)
end

