-- ==== Sys2Proof/Laws/State.lean ====
section
/-! SUPPORT. Sys2Proof/Laws/State.lean: what each named update of the state leaves in each field, so that no proof unfolds
a record update. -/

namespace Sys2Proof.Machine

@[simp] theorem complete_busy (s : State) : (complete s).busy = false := rfl
@[simp] theorem complete_done (s : State) : (complete s).done = true := rfl
@[simp] theorem complete_haz (s : State) : (complete s).haz = s.haz := rfl
@[simp] theorem complete_aerr (s : State) : (complete s).aerr = s.aerr := rfl
@[simp] theorem complete_errcode (s : State) : (complete s).errcode = .none := rfl
@[simp] theorem complete_cvstate (s : State) : (complete s).cvstate = s.cvstate := rfl
@[simp] theorem complete_irqen (s : State) : (complete s).irqen = s.irqen := rfl
@[simp] theorem complete_cmd (s : State) : (complete s).cmd = s.cmd := rfl
@[simp] theorem complete_src (s : State) : (complete s).src = s.src := rfl
@[simp] theorem complete_dst (s : State) : (complete s).dst = s.dst := rfl
@[simp] theorem complete_aux (s : State) : (complete s).aux = s.aux := rfl
@[simp] theorem complete_len (s : State) : (complete s).len = s.len := rfl
@[simp] theorem complete_g1 (s : State) : (complete s).g1 = s.g1 := rfl
@[simp] theorem complete_n1 (s : State) : (complete s).n1 = s.n1 := rfl
@[simp] theorem complete_g2 (s : State) : (complete s).g2 = s.g2 := rfl
@[simp] theorem complete_n2 (s : State) : (complete s).n2 = s.n2 := rfl
@[simp] theorem complete_eck (s : State) : (complete s).eck = s.eck := rfl
@[simp] theorem complete_cap (s : State) : (complete s).cap = s.cap := rfl
@[simp] theorem complete_symClass (s : State) : (complete s).symClass = s.symClass := rfl
@[simp] theorem complete_symVer (s : State) : (complete s).symVer = s.symVer := rfl
@[simp] theorem complete_cvH (s : State) : (complete s).cvH = s.cvH := rfl
@[simp] theorem complete_cvW (s : State) : (complete s).cvW = s.cvW := rfl
@[simp] theorem complete_cvClass (s : State) : (complete s).cvClass = s.cvClass := rfl
@[simp] theorem complete_half (s : State) : (complete s).half = s.half := rfl
@[simp] theorem complete_result (s : State) : (complete s).result = s.result := rfl
@[simp] theorem complete_gendeg (s : State) : (complete s).gendeg = s.gendeg := rfl
@[simp] theorem complete_masksel (s : State) : (complete s).masksel = s.masksel := rfl
@[simp] theorem complete_best (s : State) : (complete s).best = s.best := rfl
@[simp] theorem complete_maddr (s : State) : (complete s).maddr = s.maddr := rfl
@[simp] theorem complete_mspace (s : State) : (complete s).mspace = s.mspace := rfl
@[simp] theorem complete_scores (s : State) : (complete s).scores = s.scores := rfl
@[simp] theorem complete_cwram (s : State) : (complete s).cwram = s.cwram := rfl
@[simp] theorem complete_canvas (s : State) : (complete s).canvas = s.canvas := rfl
@[simp] theorem complete_gen (s : State) : (complete s).gen = s.gen := rfl
@[simp] theorem complete_bb (s : State) : (complete s).bb = s.bb := rfl
@[simp] theorem complete_events (s : State) : (complete s).events = s.events := rfl
@[simp] theorem complete_rdata (s : State) : (complete s).rdata = s.rdata := rfl
@[simp] theorem complete_draws (s : State) : (complete s).draws = s.draws := rfl

@[simp] theorem raiseError_busy (e : ErrCode) (s : State) : (raiseError e s).busy = false := rfl
@[simp] theorem raiseError_done (e : ErrCode) (s : State) : (raiseError e s).done = true := rfl
@[simp] theorem raiseError_haz (e : ErrCode) (s : State) : (raiseError e s).haz = s.haz := rfl
@[simp] theorem raiseError_aerr (e : ErrCode) (s : State) : (raiseError e s).aerr = s.aerr := rfl
@[simp] theorem raiseError_errcode (e : ErrCode) (s : State) : (raiseError e s).errcode = e := rfl
@[simp] theorem raiseError_cvstate (e : ErrCode) (s : State) : (raiseError e s).cvstate = s.cvstate := rfl
@[simp] theorem raiseError_irqen (e : ErrCode) (s : State) : (raiseError e s).irqen = s.irqen := rfl
@[simp] theorem raiseError_cmd (e : ErrCode) (s : State) : (raiseError e s).cmd = s.cmd := rfl
@[simp] theorem raiseError_src (e : ErrCode) (s : State) : (raiseError e s).src = s.src := rfl
@[simp] theorem raiseError_dst (e : ErrCode) (s : State) : (raiseError e s).dst = s.dst := rfl
@[simp] theorem raiseError_aux (e : ErrCode) (s : State) : (raiseError e s).aux = s.aux := rfl
@[simp] theorem raiseError_len (e : ErrCode) (s : State) : (raiseError e s).len = s.len := rfl
@[simp] theorem raiseError_g1 (e : ErrCode) (s : State) : (raiseError e s).g1 = s.g1 := rfl
@[simp] theorem raiseError_n1 (e : ErrCode) (s : State) : (raiseError e s).n1 = s.n1 := rfl
@[simp] theorem raiseError_g2 (e : ErrCode) (s : State) : (raiseError e s).g2 = s.g2 := rfl
@[simp] theorem raiseError_n2 (e : ErrCode) (s : State) : (raiseError e s).n2 = s.n2 := rfl
@[simp] theorem raiseError_eck (e : ErrCode) (s : State) : (raiseError e s).eck = s.eck := rfl
@[simp] theorem raiseError_cap (e : ErrCode) (s : State) : (raiseError e s).cap = s.cap := rfl
@[simp] theorem raiseError_symClass (e : ErrCode) (s : State) : (raiseError e s).symClass = s.symClass := rfl
@[simp] theorem raiseError_symVer (e : ErrCode) (s : State) : (raiseError e s).symVer = s.symVer := rfl
@[simp] theorem raiseError_cvH (e : ErrCode) (s : State) : (raiseError e s).cvH = s.cvH := rfl
@[simp] theorem raiseError_cvW (e : ErrCode) (s : State) : (raiseError e s).cvW = s.cvW := rfl
@[simp] theorem raiseError_cvClass (e : ErrCode) (s : State) : (raiseError e s).cvClass = s.cvClass := rfl
@[simp] theorem raiseError_half (e : ErrCode) (s : State) : (raiseError e s).half = s.half := rfl
@[simp] theorem raiseError_result (e : ErrCode) (s : State) : (raiseError e s).result = s.result := rfl
@[simp] theorem raiseError_gendeg (e : ErrCode) (s : State) : (raiseError e s).gendeg = s.gendeg := rfl
@[simp] theorem raiseError_masksel (e : ErrCode) (s : State) : (raiseError e s).masksel = s.masksel := rfl
@[simp] theorem raiseError_best (e : ErrCode) (s : State) : (raiseError e s).best = s.best := rfl
@[simp] theorem raiseError_maddr (e : ErrCode) (s : State) : (raiseError e s).maddr = s.maddr := rfl
@[simp] theorem raiseError_mspace (e : ErrCode) (s : State) : (raiseError e s).mspace = s.mspace := rfl
@[simp] theorem raiseError_scores (e : ErrCode) (s : State) : (raiseError e s).scores = s.scores := rfl
@[simp] theorem raiseError_cwram (e : ErrCode) (s : State) : (raiseError e s).cwram = s.cwram := rfl
@[simp] theorem raiseError_canvas (e : ErrCode) (s : State) : (raiseError e s).canvas = s.canvas := rfl
@[simp] theorem raiseError_gen (e : ErrCode) (s : State) : (raiseError e s).gen = s.gen := rfl
@[simp] theorem raiseError_bb (e : ErrCode) (s : State) : (raiseError e s).bb = s.bb := rfl
@[simp] theorem raiseError_events (e : ErrCode) (s : State) : (raiseError e s).events = s.events := rfl
@[simp] theorem raiseError_rdata (e : ErrCode) (s : State) : (raiseError e s).rdata = s.rdata := rfl
@[simp] theorem raiseError_draws (e : ErrCode) (s : State) : (raiseError e s).draws = s.draws := rfl

@[simp] theorem loadGen_busy (k : Byte) (s : State) : (loadGen k s).busy = s.busy := rfl
@[simp] theorem loadGen_done (k : Byte) (s : State) : (loadGen k s).done = s.done := rfl
@[simp] theorem loadGen_haz (k : Byte) (s : State) : (loadGen k s).haz = s.haz := rfl
@[simp] theorem loadGen_aerr (k : Byte) (s : State) : (loadGen k s).aerr = s.aerr := rfl
@[simp] theorem loadGen_errcode (k : Byte) (s : State) : (loadGen k s).errcode = s.errcode := rfl
@[simp] theorem loadGen_cvstate (k : Byte) (s : State) : (loadGen k s).cvstate = s.cvstate := rfl
@[simp] theorem loadGen_irqen (k : Byte) (s : State) : (loadGen k s).irqen = s.irqen := rfl
@[simp] theorem loadGen_cmd (k : Byte) (s : State) : (loadGen k s).cmd = s.cmd := rfl
@[simp] theorem loadGen_src (k : Byte) (s : State) : (loadGen k s).src = s.src := rfl
@[simp] theorem loadGen_dst (k : Byte) (s : State) : (loadGen k s).dst = s.dst := rfl
@[simp] theorem loadGen_aux (k : Byte) (s : State) : (loadGen k s).aux = s.aux := rfl
@[simp] theorem loadGen_len (k : Byte) (s : State) : (loadGen k s).len = s.len := rfl
@[simp] theorem loadGen_g1 (k : Byte) (s : State) : (loadGen k s).g1 = s.g1 := rfl
@[simp] theorem loadGen_n1 (k : Byte) (s : State) : (loadGen k s).n1 = s.n1 := rfl
@[simp] theorem loadGen_g2 (k : Byte) (s : State) : (loadGen k s).g2 = s.g2 := rfl
@[simp] theorem loadGen_n2 (k : Byte) (s : State) : (loadGen k s).n2 = s.n2 := rfl
@[simp] theorem loadGen_eck (k : Byte) (s : State) : (loadGen k s).eck = s.eck := rfl
@[simp] theorem loadGen_cap (k : Byte) (s : State) : (loadGen k s).cap = s.cap := rfl
@[simp] theorem loadGen_symClass (k : Byte) (s : State) : (loadGen k s).symClass = s.symClass := rfl
@[simp] theorem loadGen_symVer (k : Byte) (s : State) : (loadGen k s).symVer = s.symVer := rfl
@[simp] theorem loadGen_cvH (k : Byte) (s : State) : (loadGen k s).cvH = s.cvH := rfl
@[simp] theorem loadGen_cvW (k : Byte) (s : State) : (loadGen k s).cvW = s.cvW := rfl
@[simp] theorem loadGen_cvClass (k : Byte) (s : State) : (loadGen k s).cvClass = s.cvClass := rfl
@[simp] theorem loadGen_half (k : Byte) (s : State) : (loadGen k s).half = s.half := rfl
@[simp] theorem loadGen_result (k : Byte) (s : State) : (loadGen k s).result = s.result := rfl
@[simp] theorem loadGen_gendeg (k : Byte) (s : State) : (loadGen k s).gendeg = k := rfl
@[simp] theorem loadGen_masksel (k : Byte) (s : State) : (loadGen k s).masksel = s.masksel := rfl
@[simp] theorem loadGen_best (k : Byte) (s : State) : (loadGen k s).best = s.best := rfl
@[simp] theorem loadGen_maddr (k : Byte) (s : State) : (loadGen k s).maddr = s.maddr := rfl
@[simp] theorem loadGen_mspace (k : Byte) (s : State) : (loadGen k s).mspace = s.mspace := rfl
@[simp] theorem loadGen_scores (k : Byte) (s : State) : (loadGen k s).scores = s.scores := rfl
@[simp] theorem loadGen_cwram (k : Byte) (s : State) : (loadGen k s).cwram = s.cwram := rfl
@[simp] theorem loadGen_canvas (k : Byte) (s : State) : (loadGen k s).canvas = s.canvas := rfl
@[simp] theorem loadGen_gen (k : Byte) (s : State) : (loadGen k s).gen = genFile (genPoly k.toNat) := rfl
@[simp] theorem loadGen_bb (k : Byte) (s : State) : (loadGen k s).bb = s.bb := rfl
@[simp] theorem loadGen_events (k : Byte) (s : State) : (loadGen k s).events = s.events := rfl
@[simp] theorem loadGen_rdata (k : Byte) (s : State) : (loadGen k s).rdata = s.rdata := rfl
@[simp] theorem loadGen_draws (k : Byte) (s : State) : (loadGen k s).draws = s.draws := rfl

@[simp] theorem recordBest_busy (l : List Word) (s : State) : (recordBest l s).busy = s.busy := rfl
@[simp] theorem recordBest_done (l : List Word) (s : State) : (recordBest l s).done = s.done := rfl
@[simp] theorem recordBest_haz (l : List Word) (s : State) : (recordBest l s).haz = s.haz := rfl
@[simp] theorem recordBest_aerr (l : List Word) (s : State) : (recordBest l s).aerr = s.aerr := rfl
@[simp] theorem recordBest_errcode (l : List Word) (s : State) : (recordBest l s).errcode = s.errcode := rfl
@[simp] theorem recordBest_cvstate (l : List Word) (s : State) : (recordBest l s).cvstate = s.cvstate := rfl
@[simp] theorem recordBest_irqen (l : List Word) (s : State) : (recordBest l s).irqen = s.irqen := rfl
@[simp] theorem recordBest_cmd (l : List Word) (s : State) : (recordBest l s).cmd = s.cmd := rfl
@[simp] theorem recordBest_src (l : List Word) (s : State) : (recordBest l s).src = s.src := rfl
@[simp] theorem recordBest_dst (l : List Word) (s : State) : (recordBest l s).dst = s.dst := rfl
@[simp] theorem recordBest_aux (l : List Word) (s : State) : (recordBest l s).aux = s.aux := rfl
@[simp] theorem recordBest_len (l : List Word) (s : State) : (recordBest l s).len = s.len := rfl
@[simp] theorem recordBest_g1 (l : List Word) (s : State) : (recordBest l s).g1 = s.g1 := rfl
@[simp] theorem recordBest_n1 (l : List Word) (s : State) : (recordBest l s).n1 = s.n1 := rfl
@[simp] theorem recordBest_g2 (l : List Word) (s : State) : (recordBest l s).g2 = s.g2 := rfl
@[simp] theorem recordBest_n2 (l : List Word) (s : State) : (recordBest l s).n2 = s.n2 := rfl
@[simp] theorem recordBest_eck (l : List Word) (s : State) : (recordBest l s).eck = s.eck := rfl
@[simp] theorem recordBest_cap (l : List Word) (s : State) : (recordBest l s).cap = s.cap := rfl
@[simp] theorem recordBest_symClass (l : List Word) (s : State) : (recordBest l s).symClass = s.symClass := rfl
@[simp] theorem recordBest_symVer (l : List Word) (s : State) : (recordBest l s).symVer = s.symVer := rfl
@[simp] theorem recordBest_cvH (l : List Word) (s : State) : (recordBest l s).cvH = s.cvH := rfl
@[simp] theorem recordBest_cvW (l : List Word) (s : State) : (recordBest l s).cvW = s.cvW := rfl
@[simp] theorem recordBest_cvClass (l : List Word) (s : State) : (recordBest l s).cvClass = s.cvClass := rfl
@[simp] theorem recordBest_half (l : List Word) (s : State) : (recordBest l s).half = s.half := rfl
@[simp] theorem recordBest_result (l : List Word) (s : State) : (recordBest l s).result =
    BitVec.ofNat 32 (selectBest (isMicro s) l) := rfl
@[simp] theorem recordBest_gendeg (l : List Word) (s : State) : (recordBest l s).gendeg = s.gendeg := rfl
@[simp] theorem recordBest_masksel (l : List Word) (s : State) : (recordBest l s).masksel = s.masksel := rfl
@[simp] theorem recordBest_best (l : List Word) (s : State) : (recordBest l s).best =
    { mask := BitVec.ofNat 3 (selectBest (isMicro s) l), valid := true } := rfl
@[simp] theorem recordBest_maddr (l : List Word) (s : State) : (recordBest l s).maddr = s.maddr := rfl
@[simp] theorem recordBest_mspace (l : List Word) (s : State) : (recordBest l s).mspace = s.mspace := rfl
@[simp] theorem recordBest_scores (l : List Word) (s : State) : (recordBest l s).scores = setScores s.scores l := rfl
@[simp] theorem recordBest_cwram (l : List Word) (s : State) : (recordBest l s).cwram = s.cwram := rfl
@[simp] theorem recordBest_canvas (l : List Word) (s : State) : (recordBest l s).canvas = s.canvas := rfl
@[simp] theorem recordBest_gen (l : List Word) (s : State) : (recordBest l s).gen = s.gen := rfl
@[simp] theorem recordBest_bb (l : List Word) (s : State) : (recordBest l s).bb = s.bb := rfl
@[simp] theorem recordBest_events (l : List Word) (s : State) : (recordBest l s).events = s.events := rfl
@[simp] theorem recordBest_rdata (l : List Word) (s : State) : (recordBest l s).rdata = s.rdata := rfl
@[simp] theorem recordBest_draws (l : List Word) (s : State) : (recordBest l s).draws = s.draws := rfl

@[simp] theorem issue_busy (w : Word) (s : State) : (issue w s).busy = true := rfl
@[simp] theorem issue_done (w : Word) (s : State) : (issue w s).done = false := rfl
@[simp] theorem issue_haz (w : Word) (s : State) : (issue w s).haz = s.haz := rfl
@[simp] theorem issue_aerr (w : Word) (s : State) : (issue w s).aerr = s.aerr := rfl
@[simp] theorem issue_errcode (w : Word) (s : State) : (issue w s).errcode = .none := rfl
@[simp] theorem issue_cvstate (w : Word) (s : State) : (issue w s).cvstate = s.cvstate := rfl
@[simp] theorem issue_irqen (w : Word) (s : State) : (issue w s).irqen = s.irqen := rfl
@[simp] theorem issue_cmd (w : Word) (s : State) : (issue w s).cmd = w := rfl
@[simp] theorem issue_src (w : Word) (s : State) : (issue w s).src = s.src := rfl
@[simp] theorem issue_dst (w : Word) (s : State) : (issue w s).dst = s.dst := rfl
@[simp] theorem issue_aux (w : Word) (s : State) : (issue w s).aux = s.aux := rfl
@[simp] theorem issue_len (w : Word) (s : State) : (issue w s).len = s.len := rfl
@[simp] theorem issue_g1 (w : Word) (s : State) : (issue w s).g1 = s.g1 := rfl
@[simp] theorem issue_n1 (w : Word) (s : State) : (issue w s).n1 = s.n1 := rfl
@[simp] theorem issue_g2 (w : Word) (s : State) : (issue w s).g2 = s.g2 := rfl
@[simp] theorem issue_n2 (w : Word) (s : State) : (issue w s).n2 = s.n2 := rfl
@[simp] theorem issue_eck (w : Word) (s : State) : (issue w s).eck = s.eck := rfl
@[simp] theorem issue_cap (w : Word) (s : State) : (issue w s).cap = s.cap := rfl
@[simp] theorem issue_symClass (w : Word) (s : State) : (issue w s).symClass = s.symClass := rfl
@[simp] theorem issue_symVer (w : Word) (s : State) : (issue w s).symVer = s.symVer := rfl
@[simp] theorem issue_cvH (w : Word) (s : State) : (issue w s).cvH = s.cvH := rfl
@[simp] theorem issue_cvW (w : Word) (s : State) : (issue w s).cvW = s.cvW := rfl
@[simp] theorem issue_cvClass (w : Word) (s : State) : (issue w s).cvClass = s.cvClass := rfl
@[simp] theorem issue_half (w : Word) (s : State) : (issue w s).half = s.half := rfl
@[simp] theorem issue_result (w : Word) (s : State) : (issue w s).result = s.result := rfl
@[simp] theorem issue_gendeg (w : Word) (s : State) : (issue w s).gendeg = s.gendeg := rfl
@[simp] theorem issue_masksel (w : Word) (s : State) : (issue w s).masksel = s.masksel := rfl
@[simp] theorem issue_best (w : Word) (s : State) : (issue w s).best = s.best := rfl
@[simp] theorem issue_maddr (w : Word) (s : State) : (issue w s).maddr = s.maddr := rfl
@[simp] theorem issue_mspace (w : Word) (s : State) : (issue w s).mspace = s.mspace := rfl
@[simp] theorem issue_scores (w : Word) (s : State) : (issue w s).scores = s.scores := rfl
@[simp] theorem issue_cwram (w : Word) (s : State) : (issue w s).cwram = s.cwram := rfl
@[simp] theorem issue_canvas (w : Word) (s : State) : (issue w s).canvas = s.canvas := rfl
@[simp] theorem issue_gen (w : Word) (s : State) : (issue w s).gen = s.gen := rfl
@[simp] theorem issue_bb (w : Word) (s : State) : (issue w s).bb = s.bb := rfl
@[simp] theorem issue_events (w : Word) (s : State) : (issue w s).events = s.events := rfl
@[simp] theorem issue_rdata (w : Word) (s : State) : (issue w s).rdata = s.rdata := rfl
@[simp] theorem issue_draws (w : Word) (s : State) : (issue w s).draws = s.draws := rfl

@[simp] theorem accessError_busy (s : State) : (accessError s).busy = s.busy := rfl
@[simp] theorem accessError_done (s : State) : (accessError s).done = s.done := rfl
@[simp] theorem accessError_haz (s : State) : (accessError s).haz = s.haz := rfl
@[simp] theorem accessError_aerr (s : State) : (accessError s).aerr = true := rfl
@[simp] theorem accessError_errcode (s : State) : (accessError s).errcode = s.errcode := rfl
@[simp] theorem accessError_cvstate (s : State) : (accessError s).cvstate = s.cvstate := rfl
@[simp] theorem accessError_irqen (s : State) : (accessError s).irqen = s.irqen := rfl
@[simp] theorem accessError_cmd (s : State) : (accessError s).cmd = s.cmd := rfl
@[simp] theorem accessError_src (s : State) : (accessError s).src = s.src := rfl
@[simp] theorem accessError_dst (s : State) : (accessError s).dst = s.dst := rfl
@[simp] theorem accessError_aux (s : State) : (accessError s).aux = s.aux := rfl
@[simp] theorem accessError_len (s : State) : (accessError s).len = s.len := rfl
@[simp] theorem accessError_g1 (s : State) : (accessError s).g1 = s.g1 := rfl
@[simp] theorem accessError_n1 (s : State) : (accessError s).n1 = s.n1 := rfl
@[simp] theorem accessError_g2 (s : State) : (accessError s).g2 = s.g2 := rfl
@[simp] theorem accessError_n2 (s : State) : (accessError s).n2 = s.n2 := rfl
@[simp] theorem accessError_eck (s : State) : (accessError s).eck = s.eck := rfl
@[simp] theorem accessError_cap (s : State) : (accessError s).cap = s.cap := rfl
@[simp] theorem accessError_symClass (s : State) : (accessError s).symClass = s.symClass := rfl
@[simp] theorem accessError_symVer (s : State) : (accessError s).symVer = s.symVer := rfl
@[simp] theorem accessError_cvH (s : State) : (accessError s).cvH = s.cvH := rfl
@[simp] theorem accessError_cvW (s : State) : (accessError s).cvW = s.cvW := rfl
@[simp] theorem accessError_cvClass (s : State) : (accessError s).cvClass = s.cvClass := rfl
@[simp] theorem accessError_half (s : State) : (accessError s).half = s.half := rfl
@[simp] theorem accessError_result (s : State) : (accessError s).result = s.result := rfl
@[simp] theorem accessError_gendeg (s : State) : (accessError s).gendeg = s.gendeg := rfl
@[simp] theorem accessError_masksel (s : State) : (accessError s).masksel = s.masksel := rfl
@[simp] theorem accessError_best (s : State) : (accessError s).best = s.best := rfl
@[simp] theorem accessError_maddr (s : State) : (accessError s).maddr = s.maddr := rfl
@[simp] theorem accessError_mspace (s : State) : (accessError s).mspace = s.mspace := rfl
@[simp] theorem accessError_scores (s : State) : (accessError s).scores = s.scores := rfl
@[simp] theorem accessError_cwram (s : State) : (accessError s).cwram = s.cwram := rfl
@[simp] theorem accessError_canvas (s : State) : (accessError s).canvas = s.canvas := rfl
@[simp] theorem accessError_gen (s : State) : (accessError s).gen = s.gen := rfl
@[simp] theorem accessError_bb (s : State) : (accessError s).bb = s.bb := rfl
@[simp] theorem accessError_events (s : State) : (accessError s).events = s.events := rfl
@[simp] theorem accessError_rdata (s : State) : (accessError s).rdata = s.rdata := rfl
@[simp] theorem accessError_draws (s : State) : (accessError s).draws = s.draws := rfl

@[simp] theorem hazard_busy (s : State) : (hazard s).busy = s.busy := rfl
@[simp] theorem hazard_done (s : State) : (hazard s).done = s.done := rfl
@[simp] theorem hazard_haz (s : State) : (hazard s).haz = true := rfl
@[simp] theorem hazard_aerr (s : State) : (hazard s).aerr = s.aerr := rfl
@[simp] theorem hazard_errcode (s : State) : (hazard s).errcode = s.errcode := rfl
@[simp] theorem hazard_cvstate (s : State) : (hazard s).cvstate = s.cvstate := rfl
@[simp] theorem hazard_irqen (s : State) : (hazard s).irqen = s.irqen := rfl
@[simp] theorem hazard_cmd (s : State) : (hazard s).cmd = s.cmd := rfl
@[simp] theorem hazard_src (s : State) : (hazard s).src = s.src := rfl
@[simp] theorem hazard_dst (s : State) : (hazard s).dst = s.dst := rfl
@[simp] theorem hazard_aux (s : State) : (hazard s).aux = s.aux := rfl
@[simp] theorem hazard_len (s : State) : (hazard s).len = s.len := rfl
@[simp] theorem hazard_g1 (s : State) : (hazard s).g1 = s.g1 := rfl
@[simp] theorem hazard_n1 (s : State) : (hazard s).n1 = s.n1 := rfl
@[simp] theorem hazard_g2 (s : State) : (hazard s).g2 = s.g2 := rfl
@[simp] theorem hazard_n2 (s : State) : (hazard s).n2 = s.n2 := rfl
@[simp] theorem hazard_eck (s : State) : (hazard s).eck = s.eck := rfl
@[simp] theorem hazard_cap (s : State) : (hazard s).cap = s.cap := rfl
@[simp] theorem hazard_symClass (s : State) : (hazard s).symClass = s.symClass := rfl
@[simp] theorem hazard_symVer (s : State) : (hazard s).symVer = s.symVer := rfl
@[simp] theorem hazard_cvH (s : State) : (hazard s).cvH = s.cvH := rfl
@[simp] theorem hazard_cvW (s : State) : (hazard s).cvW = s.cvW := rfl
@[simp] theorem hazard_cvClass (s : State) : (hazard s).cvClass = s.cvClass := rfl
@[simp] theorem hazard_half (s : State) : (hazard s).half = s.half := rfl
@[simp] theorem hazard_result (s : State) : (hazard s).result = s.result := rfl
@[simp] theorem hazard_gendeg (s : State) : (hazard s).gendeg = s.gendeg := rfl
@[simp] theorem hazard_masksel (s : State) : (hazard s).masksel = s.masksel := rfl
@[simp] theorem hazard_best (s : State) : (hazard s).best = s.best := rfl
@[simp] theorem hazard_maddr (s : State) : (hazard s).maddr = s.maddr := rfl
@[simp] theorem hazard_mspace (s : State) : (hazard s).mspace = s.mspace := rfl
@[simp] theorem hazard_scores (s : State) : (hazard s).scores = s.scores := rfl
@[simp] theorem hazard_cwram (s : State) : (hazard s).cwram = s.cwram := rfl
@[simp] theorem hazard_canvas (s : State) : (hazard s).canvas = s.canvas := rfl
@[simp] theorem hazard_gen (s : State) : (hazard s).gen = s.gen := rfl
@[simp] theorem hazard_bb (s : State) : (hazard s).bb = s.bb := rfl
@[simp] theorem hazard_events (s : State) : (hazard s).events = s.events := rfl
@[simp] theorem hazard_rdata (s : State) : (hazard s).rdata = s.rdata := rfl
@[simp] theorem hazard_draws (s : State) : (hazard s).draws = s.draws := rfl

@[simp] theorem deliver_busy (v : Word) (s : State) : (deliver v s).busy = s.busy := rfl
@[simp] theorem deliver_done (v : Word) (s : State) : (deliver v s).done = s.done := rfl
@[simp] theorem deliver_haz (v : Word) (s : State) : (deliver v s).haz = s.haz := rfl
@[simp] theorem deliver_aerr (v : Word) (s : State) : (deliver v s).aerr = s.aerr := rfl
@[simp] theorem deliver_errcode (v : Word) (s : State) : (deliver v s).errcode = s.errcode := rfl
@[simp] theorem deliver_cvstate (v : Word) (s : State) : (deliver v s).cvstate = s.cvstate := rfl
@[simp] theorem deliver_irqen (v : Word) (s : State) : (deliver v s).irqen = s.irqen := rfl
@[simp] theorem deliver_cmd (v : Word) (s : State) : (deliver v s).cmd = s.cmd := rfl
@[simp] theorem deliver_src (v : Word) (s : State) : (deliver v s).src = s.src := rfl
@[simp] theorem deliver_dst (v : Word) (s : State) : (deliver v s).dst = s.dst := rfl
@[simp] theorem deliver_aux (v : Word) (s : State) : (deliver v s).aux = s.aux := rfl
@[simp] theorem deliver_len (v : Word) (s : State) : (deliver v s).len = s.len := rfl
@[simp] theorem deliver_g1 (v : Word) (s : State) : (deliver v s).g1 = s.g1 := rfl
@[simp] theorem deliver_n1 (v : Word) (s : State) : (deliver v s).n1 = s.n1 := rfl
@[simp] theorem deliver_g2 (v : Word) (s : State) : (deliver v s).g2 = s.g2 := rfl
@[simp] theorem deliver_n2 (v : Word) (s : State) : (deliver v s).n2 = s.n2 := rfl
@[simp] theorem deliver_eck (v : Word) (s : State) : (deliver v s).eck = s.eck := rfl
@[simp] theorem deliver_cap (v : Word) (s : State) : (deliver v s).cap = s.cap := rfl
@[simp] theorem deliver_symClass (v : Word) (s : State) : (deliver v s).symClass = s.symClass := rfl
@[simp] theorem deliver_symVer (v : Word) (s : State) : (deliver v s).symVer = s.symVer := rfl
@[simp] theorem deliver_cvH (v : Word) (s : State) : (deliver v s).cvH = s.cvH := rfl
@[simp] theorem deliver_cvW (v : Word) (s : State) : (deliver v s).cvW = s.cvW := rfl
@[simp] theorem deliver_cvClass (v : Word) (s : State) : (deliver v s).cvClass = s.cvClass := rfl
@[simp] theorem deliver_half (v : Word) (s : State) : (deliver v s).half = s.half := rfl
@[simp] theorem deliver_result (v : Word) (s : State) : (deliver v s).result = s.result := rfl
@[simp] theorem deliver_gendeg (v : Word) (s : State) : (deliver v s).gendeg = s.gendeg := rfl
@[simp] theorem deliver_masksel (v : Word) (s : State) : (deliver v s).masksel = s.masksel := rfl
@[simp] theorem deliver_best (v : Word) (s : State) : (deliver v s).best = s.best := rfl
@[simp] theorem deliver_maddr (v : Word) (s : State) : (deliver v s).maddr = s.maddr := rfl
@[simp] theorem deliver_mspace (v : Word) (s : State) : (deliver v s).mspace = s.mspace := rfl
@[simp] theorem deliver_scores (v : Word) (s : State) : (deliver v s).scores = s.scores := rfl
@[simp] theorem deliver_cwram (v : Word) (s : State) : (deliver v s).cwram = s.cwram := rfl
@[simp] theorem deliver_canvas (v : Word) (s : State) : (deliver v s).canvas = s.canvas := rfl
@[simp] theorem deliver_gen (v : Word) (s : State) : (deliver v s).gen = s.gen := rfl
@[simp] theorem deliver_bb (v : Word) (s : State) : (deliver v s).bb = s.bb := rfl
@[simp] theorem deliver_events (v : Word) (s : State) : (deliver v s).events = s.events := rfl
@[simp] theorem deliver_rdata (v : Word) (s : State) : (deliver v s).rdata = v := rfl
@[simp] theorem deliver_draws (v : Word) (s : State) : (deliver v s).draws = s.draws := rfl

@[simp] theorem advance_busy (s : State) : (advance s).busy = s.busy := rfl
@[simp] theorem advance_done (s : State) : (advance s).done = s.done := rfl
@[simp] theorem advance_haz (s : State) : (advance s).haz = s.haz := rfl
@[simp] theorem advance_aerr (s : State) : (advance s).aerr = s.aerr := rfl
@[simp] theorem advance_errcode (s : State) : (advance s).errcode = s.errcode := rfl
@[simp] theorem advance_cvstate (s : State) : (advance s).cvstate = s.cvstate := rfl
@[simp] theorem advance_irqen (s : State) : (advance s).irqen = s.irqen := rfl
@[simp] theorem advance_cmd (s : State) : (advance s).cmd = s.cmd := rfl
@[simp] theorem advance_src (s : State) : (advance s).src = s.src := rfl
@[simp] theorem advance_dst (s : State) : (advance s).dst = s.dst := rfl
@[simp] theorem advance_aux (s : State) : (advance s).aux = s.aux := rfl
@[simp] theorem advance_len (s : State) : (advance s).len = s.len := rfl
@[simp] theorem advance_g1 (s : State) : (advance s).g1 = s.g1 := rfl
@[simp] theorem advance_n1 (s : State) : (advance s).n1 = s.n1 := rfl
@[simp] theorem advance_g2 (s : State) : (advance s).g2 = s.g2 := rfl
@[simp] theorem advance_n2 (s : State) : (advance s).n2 = s.n2 := rfl
@[simp] theorem advance_eck (s : State) : (advance s).eck = s.eck := rfl
@[simp] theorem advance_cap (s : State) : (advance s).cap = s.cap := rfl
@[simp] theorem advance_symClass (s : State) : (advance s).symClass = s.symClass := rfl
@[simp] theorem advance_symVer (s : State) : (advance s).symVer = s.symVer := rfl
@[simp] theorem advance_cvH (s : State) : (advance s).cvH = s.cvH := rfl
@[simp] theorem advance_cvW (s : State) : (advance s).cvW = s.cvW := rfl
@[simp] theorem advance_cvClass (s : State) : (advance s).cvClass = s.cvClass := rfl
@[simp] theorem advance_half (s : State) : (advance s).half = s.half := rfl
@[simp] theorem advance_result (s : State) : (advance s).result = s.result := rfl
@[simp] theorem advance_gendeg (s : State) : (advance s).gendeg = s.gendeg := rfl
@[simp] theorem advance_masksel (s : State) : (advance s).masksel = s.masksel := rfl
@[simp] theorem advance_best (s : State) : (advance s).best = s.best := rfl
@[simp] theorem advance_maddr (s : State) : (advance s).maddr = s.maddr + 1#16 := rfl
@[simp] theorem advance_mspace (s : State) : (advance s).mspace = s.mspace := rfl
@[simp] theorem advance_scores (s : State) : (advance s).scores = s.scores := rfl
@[simp] theorem advance_cwram (s : State) : (advance s).cwram = s.cwram := rfl
@[simp] theorem advance_canvas (s : State) : (advance s).canvas = s.canvas := rfl
@[simp] theorem advance_gen (s : State) : (advance s).gen = s.gen := rfl
@[simp] theorem advance_bb (s : State) : (advance s).bb = s.bb := rfl
@[simp] theorem advance_events (s : State) : (advance s).events = s.events := rfl
@[simp] theorem advance_rdata (s : State) : (advance s).rdata = s.rdata := rfl
@[simp] theorem advance_draws (s : State) : (advance s).draws = s.draws := rfl

end Sys2Proof.Machine
end

