-- ==== Sys2Proof/Laws/Ops.lean ====
section
/-! SUPPORT. Sys2Proof/Laws/Ops.lean: what each shared operation can do, stated once: the sparse memories and their
canonical form, the readers and writers of regions and modules, the bit lists, and going on with what was read. -/

namespace Sys2Proof.Machine

/-! ### Sparse memories -/

theorem cellRead_cellWrite {α : Type} (m : List (Nat × α)) (a x : Nat) (v : α) :
    cellRead (cellWrite m a v) x = if x = a then some v else cellRead m x := by
  induction m with
  | nil =>
    by_cases h : a = x <;> simp [cellWrite, cellRead, h, eq_comm]
  | cons c rest ih =>
    obtain ⟨k, y⟩ := c
    by_cases h1 : a < k
    · have hw : cellWrite ((k, y) :: rest) a v = (a, v) :: (k, y) :: rest := if_pos h1
      rw [hw, cellRead]
      by_cases h : a = x
      · rw [if_pos h, if_pos h.symm]
      · rw [if_neg h, if_neg (fun e => h e.symm)]
    · by_cases h2 : a = k
      · subst h2
        by_cases h : a = x
        · simp [cellWrite, cellRead, h]
        · have h' : ¬x = a := fun e => h e.symm
          simp [cellWrite, cellRead, h, h']
      · by_cases h3 : k = x
        · subst h3
          have h' : ¬k = a := fun e => h2 e.symm
          simp [cellWrite, cellRead, h1, h2, h']
        · simp [cellWrite, cellRead, h1, h2, h3, ih]

@[simp] theorem cellRead_cellWrite_same {α : Type} (m : List (Nat × α)) (a : Nat) (v : α) :
    cellRead (cellWrite m a v) a = some v := by
  simp [cellRead_cellWrite]

theorem cellRead_cellWrite_other {α : Type} (m : List (Nat × α)) {a x : Nat} (v : α) (h : x ≠ a) :
    cellRead (cellWrite m a v) x = cellRead m x := by
  simp [cellRead_cellWrite, h]

theorem cellRead_cellErase {α : Type} (m : List (Nat × α)) (a n x : Nat) :
    cellRead (cellErase m a n) x = if a ≤ x ∧ x < a + n then none else cellRead m x := by
  induction m with
  | nil => simp [cellErase, cellRead]
  | cons c rest ih =>
    obtain ⟨k, y⟩ := c
    have hfold : cellErase rest a n
        = rest.filter (fun c => !(decide (a ≤ c.1) && decide (c.1 < a + n))) := rfl
    by_cases hk : a ≤ k ∧ k < a + n
    · have : cellErase ((k, y) :: rest) a n = cellErase rest a n := by
        simp [cellErase, hk.1, hk.2]
      rw [this, ih]
      by_cases hx : a ≤ x ∧ x < a + n
      · simp [hx]
      · have hne : ¬k = x := fun e => hx (e ▸ hk)
        simp [hx, cellRead, hne]
    · have : cellErase ((k, y) :: rest) a n = (k, y) :: cellErase rest a n := by
        have hb : (!(decide (a ≤ k) && decide (k < a + n))) = true := by
          have : a ≤ k → ¬k < a + n := fun h1 h2 => hk ⟨h1, h2⟩
          by_cases h1 : a ≤ k <;> simp_all
        rw [hfold, cellErase, List.filter_cons, if_pos hb]
      rw [this]
      by_cases hkx : k = x
      · subst hkx
        simp [cellRead, hk]
      · simp [cellRead, hkx, ih]

theorem mem_cellWrite {α : Type} (m : List (Nat × α)) (a : Nat) (v : α) :
    ∀ c ∈ cellWrite m a v, c = (a, v) ∨ c ∈ m := by
  induction m with
  | nil => intro c hc; simpa [cellWrite] using hc
  | cons d rest ih =>
    obtain ⟨k, y⟩ := d
    intro c hc
    unfold cellWrite at hc
    split at hc
    · simpa using hc
    · split at hc
      · rcases List.mem_cons.1 hc with h | h
        · exact .inl h
        · exact .inr (List.mem_cons_of_mem _ h)
      · rcases List.mem_cons.1 hc with h | h
        · exact .inr (h ▸ List.mem_cons_self)
        · rcases ih c h with h | h
          · exact .inl h
          · exact .inr (List.mem_cons_of_mem _ h)

theorem cellWrite_pairwise {α : Type} (m : List (Nat × α)) (a : Nat) (v : α)
    (h : m.Pairwise (fun x y => x.1 < y.1)) : (cellWrite m a v).Pairwise (fun x y => x.1 < y.1) := by
  induction m with
  | nil => simp [cellWrite]
  | cons d rest ih =>
    obtain ⟨k, y⟩ := d
    obtain ⟨hk, hrest⟩ := List.pairwise_cons.1 h
    unfold cellWrite
    split
    · rename_i hlt
      refine List.pairwise_cons.2 ⟨fun c hc => ?_, h⟩
      rcases List.mem_cons.1 hc with rfl | hc
      · exact hlt
      · exact lt_trans hlt (hk c hc)
    · split
      · rename_i heq
        subst heq
        exact List.pairwise_cons.2 ⟨hk, hrest⟩
      · rename_i hnlt hne
        refine List.pairwise_cons.2 ⟨fun c hc => ?_, ih hrest⟩
        rcases mem_cellWrite rest a v c hc with rfl | hc
        · show k < a
          omega
        · exact hk c hc

/-- Writing below the bound keeps the canonical form. -/
theorem cellWrite_wf {α : Type} {bound : Nat} {m : List (Nat × α)} {a : Nat} (v : α)
    (h : cellsWf bound m) (ha : a < bound) : cellsWf bound (cellWrite m a v) := by
  refine ⟨cellWrite_pairwise m a v h.1, fun c hc => ?_⟩
  rcases mem_cellWrite m a v c hc with rfl | hc
  · exact ha
  · exact h.2 c hc

/-- Erasing keeps the canonical form. -/
theorem cellErase_wf {α : Type} {bound : Nat} {m : List (Nat × α)} (a n : Nat) (h : cellsWf bound m) :
    cellsWf bound (cellErase m a n) :=
  ⟨h.1.filter _, fun c hc => h.2 c (List.mem_filter.1 hc).1⟩

/-- The state after reset has canonical memories. -/
theorem reset_memories_wf : Memory.wf State.reset.cwram ∧ Canvas.wf State.reset.canvas := by
  decide

/-- A region written in CWRAM keeps the canonical form. -/
theorem writeBytes_wf (bs : List Byte) (m : List Host.Cell) (a : Nat) (h : Memory.wf m)
    (ha : a + bs.length ≤ Config.cwBytes) : Memory.wf (writeBytes m a bs) := by
  induction bs generalizing m a with
  | nil => exact h
  | cons b bs ih =>
    have hlen : a + (bs.length + 1) ≤ Config.cwBytes := by simpa using ha
    exact ih _ _ (cellWrite_wf b h (by omega)) (by omega)

/-- What a region written in CWRAM reads as. -/
theorem cellRead_writeBytes (bs : List Byte) (m : List Host.Cell) (a x : Nat) :
    cellRead (writeBytes m a bs) x
      = if a ≤ x ∧ x < a + bs.length then bs[x - a]? else cellRead m x := by
  induction bs generalizing m a with
  | nil =>
    have : ¬(a ≤ x ∧ x < a + ([] : List Byte).length) := by simp
    rw [if_neg this]; rfl
  | cons b bs ih =>
    rw [show writeBytes m a (b :: bs) = writeBytes (cellWrite m a b) (a + 1) bs from rfl, ih,
      cellRead_cellWrite]
    by_cases h1 : x = a
    · subst h1
      simp
    · by_cases h2 : a + 1 ≤ x ∧ x < a + 1 + bs.length
      · have h3 : a ≤ x ∧ x < a + (b :: bs).length := by simp; omega
        have h4 : x - a = (x - (a + 1)) + 1 := by omega
        rw [if_pos h2, if_pos h3, h4, List.getElem?_cons_succ]
      · have h3 : ¬(a ≤ x ∧ x < a + (b :: bs).length) := by simp; omega
        rw [if_neg h2, if_neg h3, if_neg h1]

/-- What reading a region answers: as many bytes as asked for, each the one its address holds. -/
theorem readBytes_ok {m : List Host.Cell} {a n : Nat} {bs : List Byte} (h : readBytes m a n = .ok bs) :
    bs.length = n ∧ ∀ i < n, cellRead m (a + i) = bs[i]? := by
  induction n generalizing a bs with
  | zero => cases h; simp
  | succ n ih =>
    unfold readBytes at h
    split at h
    · cases h
    · rename_i b hb
      split at h
      · cases h
      · rename_i rest hrest
        cases h
        obtain ⟨hlen, hget⟩ := ih hrest
        refine ⟨by simp [hlen], fun i hi => ?_⟩
        cases i with
        | zero => simpa using hb
        | succ i =>
          have := hget i (by omega)
          simpa [Nat.add_assoc, Nat.add_comm 1 i] using this

/-- A region whose bytes are all written is read. -/
theorem readBytes_of_written {m : List Host.Cell} {a n : Nat}
    (h : ∀ i < n, (cellRead m (a + i)).isSome = true) : ∃ bs, readBytes m a n = .ok bs := by
  induction n generalizing a with
  | zero => exact ⟨[], rfl⟩
  | succ n ih =>
    obtain ⟨b, hb⟩ := Option.isSome_iff_exists.1 (h 0 (by omega))
    obtain ⟨bs, hbs⟩ := ih (a := a + 1) (fun i hi => by
      have := h (i + 1) (by omega)
      simpa [Nat.add_assoc, Nat.add_comm 1 i] using this)
    refine ⟨b :: bs, ?_⟩
    have hb' : cellRead m a = some b := by simpa using hb
    simp [readBytes, hb', hbs]

/-- Reading a region stops only at an unwritten byte of it. -/
theorem readBytes_error {m : List Host.Cell} {a n : Nat} {f : Fault} (h : readBytes m a n = .error f) :
    ∃ i < n, f = .unwrittenByte (a + i) ∧ cellRead m (a + i) = none := by
  induction n generalizing a with
  | zero => cases h
  | succ n ih =>
    unfold readBytes at h
    split at h
    · rename_i hb
      cases h
      exact ⟨0, by omega, rfl, hb⟩
    · split at h
      · rename_i hrest
        cases h
        obtain ⟨i, hi, hf, hn⟩ := ih hrest
        exact ⟨i + 1, by omega, by rw [hf, Nat.add_assoc, Nat.add_comm 1],
          by rw [← hn, Nat.add_assoc, Nat.add_comm 1]⟩
      · cases h

/-! ### Modules -/

/-- What reading a list of modules answers: each the one its key holds. -/
theorem readModules_ok {m : List (Nat × Module)} {cells : List (Nat × Nat)} {vs : List Module}
    (h : readModules m cells = .ok vs) :
    List.Forall₂ (fun x v => cellRead m (moduleKey x.1 x.2) = some v) cells vs := by
  induction cells generalizing vs with
  | nil => cases h; exact .nil
  | cons x cells ih =>
    obtain ⟨r, c⟩ := x
    unfold readModules at h
    split at h
    · cases h
    · rename_i v hv
      split at h
      · cases h
      · rename_i rest hrest
        cases h
        refine .cons ?_ (ih hrest)
        unfold readModule at hv
        split at hv
        · cases hv
        · rename_i w hw
          cases hv
          exact hw

/-- A list of written modules is read. -/
theorem readModules_of_written {m : List (Nat × Module)} {cells : List (Nat × Nat)}
    (h : ∀ x ∈ cells, (cellRead m (moduleKey x.1 x.2)).isSome = true) : ∃ vs, readModules m cells = .ok vs := by
  induction cells with
  | nil => exact ⟨[], rfl⟩
  | cons x cells ih =>
    obtain ⟨r, c⟩ := x
    obtain ⟨v, hv⟩ := Option.isSome_iff_exists.1 (h (r, c) List.mem_cons_self)
    obtain ⟨vs, hvs⟩ := ih (fun y hy => h y (List.mem_cons_of_mem _ hy))
    have hv' : cellRead m (moduleKey r c) = some v := hv
    exact ⟨v :: vs, by simp [readModules, readModule, hv', hvs]⟩

/-- Reading modules stops only at an unwritten one among them. -/
theorem readModules_error {m : List (Nat × Module)} {cells : List (Nat × Nat)} {f : Fault}
    (h : readModules m cells = .error f) :
    ∃ r c, f = .unwrittenModule r c ∧ (r, c) ∈ cells ∧ cellRead m (moduleKey r c) = none := by
  induction cells with
  | nil => cases h
  | cons x cells ih =>
    obtain ⟨r, c⟩ := x
    unfold readModules at h
    split at h
    · rename_i g hv
      cases h
      unfold readModule at hv
      split at hv
      · rename_i hn
        cases hv
        exact ⟨r, c, rfl, List.mem_cons_self, hn⟩
      · cases hv
    · split at h
      · rename_i hrest
        cases h
        obtain ⟨r', c', hf, hm, hn⟩ := ih hrest
        exact ⟨r', c', hf, List.mem_cons_of_mem _ hm, hn⟩
      · cases h

/-- Modules written outside a key leave it. -/
theorem cellRead_writeModules_other (ws : List ((Nat × Nat) × Module)) (m : List (Nat × Module)) (k : Nat)
    (h : ∀ x ∈ ws, k ≠ moduleKey x.1.1 x.1.2) : cellRead (writeModules m ws) k = cellRead m k := by
  induction ws generalizing m with
  | nil => rfl
  | cons x ws ih =>
    obtain ⟨⟨r, c⟩, v⟩ := x
    rw [show writeModules m (((r, c), v) :: ws) = writeModules (cellWrite m (moduleKey r c) v) ws from rfl,
      ih _ (fun y hy => h y (List.mem_cons_of_mem _ hy)),
      cellRead_cellWrite_other _ _ (h ((r, c), v) List.mem_cons_self)]

/-- Writing modules at 8-bit rows and columns keeps the canonical form. -/
theorem writeModules_wf (ws : List ((Nat × Nat) × Module)) (m : List (Nat × Module)) (hm : Canvas.wf m)
    (h : ∀ x ∈ ws, x.1.1 < 256 ∧ x.1.2 < 256) : Canvas.wf (writeModules m ws) := by
  induction ws generalizing m with
  | nil => exact hm
  | cons x ws ih =>
    obtain ⟨⟨r, c⟩, v⟩ := x
    obtain ⟨hr, hc⟩ := h ((r, c), v) List.mem_cons_self
    refine ih _ (cellWrite_wf v hm ?_) (fun y hy => h y (List.mem_cons_of_mem _ hy))
    simp only [moduleKey] at *
    omega

/-! ### Going on with what was read -/

/-- `orFault` answers a next state only through what was read. -/
theorem orFault_next {α : Type} {x : Except Fault α} {k : α → Host.Outcome State Fault Refusal} {t : State}
    (h : orFault x k = .next t) : ∃ a, x = .ok a ∧ k a = .next t := by
  cases x with
  | ok a => exact ⟨a, rfl, h⟩
  | error f => cases h

/-- `orFault` faults with the reader's fault or with the continuation's. -/
theorem orFault_fault {α : Type} {x : Except Fault α} {k : α → Host.Outcome State Fault Refusal} {f : Fault}
    (h : orFault x k = .fault f) : x = .error f ∨ ∃ a, x = .ok a ∧ k a = .fault f := by
  cases x with
  | ok a => exact .inr ⟨a, rfl, h⟩
  | error g => cases h; exact .inl rfl

/-- `orFault` refuses only where the continuation does. -/
theorem orFault_refused {α : Type} {x : Except Fault α} {k : α → Host.Outcome State Fault Refusal} {r : Refusal}
    (h : orFault x k = .refused r) : ∃ a, x = .ok a ∧ k a = .refused r := by
  cases x with
  | ok a => exact ⟨a, rfl, h⟩
  | error f => cases h

@[simp] theorem orFault_ok {α : Type} (a : α) (k : α → Host.Outcome State Fault Refusal) :
    orFault (.ok a) k = k a := rfl

@[simp] theorem orFault_error {α : Type} (f : Fault) (k : α → Host.Outcome State Fault Refusal) :
    orFault (.error f) k = .fault f := rfl

/-! ### Bit lists -/

@[simp] theorem bitsOf_length (v n : Nat) : (bitsOf v n).length = n := by
  induction n with
  | zero => rfl
  | succ n ih => simp [bitsOf, ih]

/-- Bit `j` of an append is bit `n - 1 - j` of the value (R141). -/
theorem bitsOf_get (v : Nat) {n j : Nat} (h : j < n) : (bitsOf v n)[j]? = some (v.testBit (n - 1 - j)) := by
  induction n generalizing j with
  | zero => omega
  | succ n ih =>
    cases j with
    | zero => simp [bitsOf]
    | succ j =>
      have h2 : n + 1 - 1 - (j + 1) = n - 1 - j := by omega
      rw [bitsOf, List.getElem?_cons_succ, ih (by omega), h2]

@[simp] theorem bitsOfBytes_length (bs : List Byte) : (bitsOfBytes bs).length = 8 * bs.length := by
  induction bs with
  | nil => rfl
  | cons b bs ih => simp [bitsOfBytes] at ih ⊢; omega

@[simp] theorem intoBytes_length (bb : List Bool) : (intoBytes bb).length = bbBytes bb := by
  simp [intoBytes]

@[simp] theorem appendBits_length (bb : List Bool) (v n : Nat) : (appendBits bb v n).length = bb.length + n := by
  simp [appendBits]

/-- A port address is the key of the module it names. -/
theorem moduleKey_port (a : Nat) : moduleKey (a / 256) (a % 256) = a := by
  simp only [moduleKey]; omega

/-- Distinct 8-bit coordinates have distinct keys. -/
theorem moduleKey_inj {r c r' c' : Nat} (hc : c < 256) (hc' : c' < 256) (h : moduleKey r c = moduleKey r' c') :
    r = r' ∧ c = c' := by
  simp only [moduleKey] at h; omega

end Sys2Proof.Machine
end

