-- ==== Sys2Proof/Laws/Operands.lean ====
section
/-! SUPPORT. Sys2Proof/Laws/Operands.lean: the checks and operand readers in the terms of Safety.lean, stated once. -/

namespace Sys2Proof.Machine

/-- The range check is R90. -/
theorem inCwram_iff (a n : Nat) : inCwram a n = true ↔ regionFits a n := by
  simp [inCwram, regionFits]

/-- The overlap check is R91. -/
theorem overlap_iff (a n b m : Nat) : overlap a n b m = true ↔ regionsMeet a n b m := by
  simp [overlap, regionsMeet, and_assoc]

/-- The validity check is R44. -/
theorem symValid_iff (s : State) : symValid s = true ↔ symOk s := by
  simp [symValid, symOk, and_assoc, or_assoc]

theorem dataTotal_eq (s : State) : dataTotal s = specData s := rfl

theorem ecTotal_eq (s : State) : ecTotal s = specEc s := rfl

@[simp] theorem blockLens_length (s : State) : (blockLens s).length = specBlocks s := by
  simp [blockLens, specBlocks]

/-- The length of block `b` (R200). -/
theorem blockLens_get (s : State) {b : Nat} (hb : b < specBlocks s) : (blockLens s)[b]? = some (specLen s b) := by
  unfold blockLens specLen
  by_cases h : b < s.g1.toNat
  · rw [List.getElem?_append_left (by simpa using h), if_pos h]
    simp [h]
  · have h2 : b - s.g1.toNat < s.g2.toNat := by
      unfold specBlocks at hb; omega
    rw [List.getElem?_append_right (by simpa using Nat.le_of_not_lt h), if_neg h]
    simp [h2]

/-- The blocks partition the data region (R200). -/
theorem blockLens_sum (s : State) : (blockLens s).sum = specData s := by
  simp [blockLens, specData]

/-- Cutting a region into blocks gives as many blocks as lengths. -/
@[simp] theorem cutBlocks_length {α : Type} (lens : List Nat) (xs : List α) :
    (cutBlocks lens xs).length = lens.length := by
  induction lens generalizing xs with
  | nil => rfl
  | cons n ns ih => simp [cutBlocks, ih]

/-- Block `b` is the codewords from the sum of the lengths before it (R200). -/
theorem cutBlocks_get {α : Type} (lens : List Nat) (xs : List α) {b n : Nat} (h : lens[b]? = some n) :
    (cutBlocks lens xs)[b]? = some ((xs.drop (lens.take b).sum).take n) := by
  induction lens generalizing xs b with
  | nil => simp at h
  | cons m ms ih =>
    cases b with
    | zero =>
      simp only [List.getElem?_cons_zero, Option.some.injEq] at h
      simp [cutBlocks, h]
    | succ b =>
      rw [List.getElem?_cons_succ] at h
      rw [cutBlocks, List.getElem?_cons_succ, ih (xs.drop m) h]
      simp [List.drop_drop]

/-- The shared checks of the mask commands pass exactly where R251 and R262 allow them. -/
theorem maskStateError_eq_none_iff (s : State) : maskStateError s = none ↔ maskAllowed s := by
  unfold maskStateError maskAllowed
  split <;> rename_i h
  · simp [h]
  · split <;> rename_i h2 <;> simp [h, h2]

/-- The checks of MASK and SCORE pass exactly where the commands are allowed and the index is a candidate. -/
theorem maskIndexError_eq_none_iff (m : BitVec 3) (s : State) :
    maskIndexError m s = none ↔ maskAllowed s ∧ isCandidate s.cvClass m := by
  unfold maskIndexError
  split
  · rename_i e he
    have hn : ¬maskAllowed s := fun h => by
      rw [(maskStateError_eq_none_iff s).2 h] at he; cases he
    simp [hn]
  · rename_i he
    have ha : maskAllowed s := (maskStateError_eq_none_iff s).1 he
    rw [and_iff_right ha]
    by_cases hm : s.cvClass = .micro <;> simp [isMicro, isCandidate, hm]

end Sys2Proof.Machine
end

