-- ==== Sys2Proof/Laws/Canvas.lean ====
section
/-! SUPPORT. Sys2Proof/Laws/Canvas.lean: where the placement path goes, and at which modules masking and scoring can
stop, in the terms of Safety.lean. -/

namespace Sys2Proof.Machine

/-! ### The placement path -/

theorem mem_pairUp : ∀ {l : List Nat} {x : Nat × Nat}, x ∈ pairUp l → x.1 ∈ l ∧ x.2 ∈ l
  | [], _, h => by simp [pairUp] at h
  | [_], _, h => by simp [pairUp] at h
  | _ :: _ :: _, _, h => by
    simp only [pairUp, List.mem_cons] at h
    rcases h with rfl | h
    · simp
    · simp [mem_pairUp h]

theorem mem_strips {h : Nat} : ∀ (l : List (Nat × Nat)) (i : Nat) {x : Nat × Nat}, x ∈ strips h i l →
    x.1 < h ∧ ∃ p ∈ l, x.2 = p.1 ∨ x.2 = p.2
  | [], _, _, hx => by simp [strips] at hx
  | (right, left) :: l, i, x, hx => by
    simp only [strips, List.mem_append] at hx
    rcases hx with hx | hx
    · simp only [stripCells, List.mem_flatMap, stripRows] at hx
      obtain ⟨r, hr, hx⟩ := hx
      have hr : r < h := by split at hr <;> simpa using hr
      simp only [List.mem_cons, List.not_mem_nil, or_false] at hx
      rcases hx with rfl | rfl <;> exact ⟨hr, (right, left), by simp, by simp⟩
    · obtain ⟨h1, p, hp, h2⟩ := mem_strips l _ hx
      exact ⟨h1, p, by simp [hp], h2⟩

/-- A cell of the path lies on the canvas, outside the timing column (R242). -/
theorem mem_path {h w t r c : Nat} (hx : (r, c) ∈ path h w t) : r < h ∧ c < w ∧ c ≠ t := by
  obtain ⟨h1, p, hp, h2⟩ := mem_strips _ _ hx
  have column : ∀ q ∈ pathColumns w t, q < w ∧ q ≠ t := fun q hq => by simpa [pathColumns] using hq
  obtain ⟨hr, hl⟩ := mem_pairUp hp
  rcases h2 with h2 | h2 <;> simp only at h2 <;> subst h2
  · exact ⟨h1, column _ hr⟩
  · exact ⟨h1, column _ hl⟩

/-! ### Masking -/

/-- The predicates are R250. -/
theorem specPred_of_pred {i r c : Nat} (h : pred i r c = true) : specPred i r c := by
  unfold pred at h
  split at h <;> simp_all [specPred]

/-- The predicate index of a candidate is R252. -/
theorem specIndex_eq {s : State} {m : BitVec 3} (h : isCandidate s.cvClass m) :
    specIndex s.cvClass m.toNat = if isMicro s then microIndex m.toNat else m.toNat := by
  unfold specIndex isMicro
  cases hc : s.cvClass <;> simp
  have h3 : m.toNat ≤ 3 := h hc
  revert h3
  generalize m.toNat = k
  intro h3
  interval_cases k <;> rfl

/-- Masking stops only at an unwritten module where the predicate holds. -/
theorem maskedCanvas_error {m : BitVec 3} {s : State} {f : Fault} (hm : isCandidate s.cvClass m)
    (h : maskedCanvas m.toNat s = .error f) :
    ∃ r c, f = .unwrittenModule r c ∧ r < s.cvH.toNat ∧ c < s.cvW.toNat
      ∧ specPred (specIndex s.cvClass m.toNat) r c ∧ cellRead s.canvas (256 * r + c) = none := by
  unfold maskedCanvas at h
  split at h
  · rename_i hr
    cases h
    obtain ⟨r, c, hf, hx, hn⟩ := readModules_error hr
    have hx' : (r < s.cvH.toNat ∧ c < s.cvW.toNat) ∧ maskPred (isMicro s) m.toNat r c = true := by
      simpa [maskCells, allCells] using hx
    exact ⟨r, c, hf, hx'.1.1, hx'.1.2, specIndex_eq hm ▸ specPred_of_pred hx'.2, hn⟩
  · cases h

/-! ### Scoring -/

/-- Reading rows stops only at an unwritten module of them. -/
theorem readRows_error {m : List (Nat × Module)} {w n r : Nat} {f : Fault} (h : readRows m w r n = .error f) :
    ∃ r' c, f = .unwrittenModule r' c ∧ r' < r + n ∧ c < w ∧ cellRead m (256 * r' + c) = none := by
  induction n generalizing r with
  | zero => cases h
  | succ n ih =>
    unfold readRows at h
    split at h
    · rename_i hr
      cases h
      obtain ⟨r', c, hf, hx, hn⟩ := readModules_error hr
      simp only [List.mem_map, List.mem_range, Prod.mk.injEq] at hx
      obtain ⟨_, hc, rfl, rfl⟩ := hx
      exact ⟨_, _, hf, by omega, hc, hn⟩
    · split at h
      · rename_i hr
        cases h
        obtain ⟨r', c, hf, hlt, hrest⟩ := ih hr
        exact ⟨r', c, hf, by omega, hrest⟩
      · cases h

/-- Summing dark modules stops only at an unwritten one among them. -/
theorem darkSum_error {canvas : List (Nat × Module)} {m : Nat} {cells : List (Nat × Nat)} {f : Fault}
    (he : darkSum canvas m cells = .error f) :
    ∃ r c, f = .unwrittenModule r c ∧ (r, c) ∈ cells ∧ cellRead canvas (256 * r + c) = none := by
  unfold darkSum at he
  split at he
  · rename_i hr
    cases he
    exact readModules_error hr
  · cases he

/-- The Micro score stops only at an unwritten module that R261 sums. -/
theorem microScore_error {m : List (Nat × Module)} {h w k : Nat} {f : Fault} (he : microScore m h w k = .error f) :
    ∃ r c, f = .unwrittenModule r c ∧ r < h ∧ c < w ∧ ((1 ≤ r ∧ c = w - 1) ∨ (1 ≤ c ∧ r = h - 1))
      ∧ cellRead m (256 * r + c) = none := by
  unfold microScore microSum1 microSum2 at he
  split at he
  · rename_i h1
    cases he
    split at h1
    · cases h1
    · obtain ⟨r, c, hf, hx, hn⟩ := darkSum_error h1
      simp only [sum1Cells, List.mem_map, List.mem_range, Prod.mk.injEq] at hx
      obtain ⟨i, hi, rfl, rfl⟩ := hx
      exact ⟨_, _, hf, by omega, by omega, by omega, hn⟩
  · split at he
    · rename_i h2
      cases he
      split at h2
      · cases h2
      · obtain ⟨r, c, hf, hx, hn⟩ := darkSum_error h2
        simp only [sum2Cells, List.mem_map, List.mem_range, Prod.mk.injEq] at hx
        obtain ⟨i, hi, rfl, rfl⟩ := hx
        exact ⟨_, _, hf, by omega, by omega, by omega, hn⟩
    · cases he

theorem microScores_error {m : List (Nat × Module)} {h w : Nat} {ks : List Nat} {f : Fault}
    (he : microScores m h w ks = .error f) : ∃ k ∈ ks, microScore m h w k = .error f := by
  induction ks with
  | nil => cases he
  | cons k ks ih =>
    unfold microScores at he
    split at he
    · rename_i hk
      cases he
      exact ⟨k, List.mem_cons_self, hk⟩
    · split at he
      · rename_i hks
        cases he
        obtain ⟨k', hm, hk⟩ := ih hks
        exact ⟨k', List.mem_cons_of_mem _ hm, hk⟩
      · cases he

/-- Scoring stops only at an unwritten module that scoring consumes. -/
theorem candidateScores_error {ks : List Nat} {s : State} {f : Fault} (hc : s.cvClass ≠ .rmqr)
    (h : candidateScores ks s = .error f) :
    ∃ r c, f = .unwrittenModule r c ∧ r < s.cvH.toNat ∧ c < s.cvW.toNat ∧ scoringModule s r c
      ∧ cellRead s.canvas (256 * r + c) = none := by
  unfold candidateScores at h
  split at h
  · obtain ⟨k, -, hk⟩ := microScores_error h
    obtain ⟨r, c, hf, hr, hcol, hx, hn⟩ := microScore_error hk
    exact ⟨r, c, hf, hr, hcol, .inr hx, hn⟩
  · rename_i hm
    have normal : s.cvClass = .normal := by
      cases hcls : s.cvClass <;> simp_all [isMicro]
    split at h
    · rename_i hr
      cases h
      obtain ⟨r, c, hf, hlt, hcol, hn⟩ := readRows_error hr
      exact ⟨r, c, hf, by omega, hcol, .inl normal, hn⟩
    · cases h

/-- The selection is the index of a candidate (R266). -/
theorem selectBest_lt {micro : Bool} {l : List Word} (h : l ≠ []) : selectBest micro l < l.length := by
  have ne : l.toFinset.Nonempty := List.toFinset_nonempty_iff l |>.2 h
  refine List.findIdx_lt_length_of_exists ?_
  cases micro
  · obtain ⟨x, hx, hmin⟩ := l.toFinset.exists_min_image BitVec.toNat ne
    exact ⟨x, List.mem_toFinset.1 hx, by simpa [BitVec.le_def] using hmin⟩
  · obtain ⟨x, hx, hmax⟩ := l.toFinset.exists_max_image BitVec.toNat ne
    exact ⟨x, List.mem_toFinset.1 hx, by simpa [BitVec.le_def] using hmax⟩

/-- Every candidate of a list gets one score. -/
theorem candidateScores_length {ks : List Nat} {s : State} {l : List Word} (h : candidateScores ks s = .ok l) :
    l.length = ks.length := by
  have micro : ∀ {m : List (Nat × Module)} {h w : Nat} {ks : List Nat} {l : List Word},
      microScores m h w ks = .ok l → l.length = ks.length := by
    intro m h w ks
    induction ks with
    | nil => rintro _ ⟨⟩; rfl
    | cons k ks ih =>
      intro l he
      unfold microScores at he
      split at he
      · cases he
      · split at he
        · cases he
        · rename_i hks
          cases he
          simp [ih hks]
  unfold candidateScores at h
  split at h
  · exact micro h
  · split at h
    · cases h
    · cases h; simp

/-- The selection among all candidates is a candidate (R263, R266). -/
theorem selectBest_candidate {s : State} {l : List Word} (h : candidateScores (candidates (isMicro s)) s = .ok l) :
    isCandidate s.cvClass (BitVec.ofNat 3 (selectBest (isMicro s) l))
      ∧ (BitVec.ofNat 3 (selectBest (isMicro s) l)).toNat = selectBest (isMicro s) l := by
  have hl : l.length = if isMicro s then 4 else 8 := by
    rw [candidateScores_length h]; simp [candidates]
  have hlt : selectBest (isMicro s) l < l.length := selectBest_lt (by rintro rfl; simp at hl; split at hl <;> cases hl)
  have ht : (BitVec.ofNat 3 (selectBest (isMicro s) l)).toNat = selectBest (isMicro s) l := by
    rw [BitVec.toNat_ofNat, Nat.mod_eq_of_lt]
    split at hl <;> omega
  refine ⟨fun hc => ?_, ht⟩
  rw [ht]
  simp only [isMicro, hc, beq_self_eq_true, if_true] at hl hlt ⊢
  omega

/-! ### Canvases with no data module (R262, R264) -/

/-- No mask changes the colour of a function module (R255). -/
theorem maskedColour_function {v : Module} (hv : v.function = true) (micro : Bool) (m r c : Nat) :
    maskedColour micro m r c v = v.dark := by
  simp [maskedColour, hv]

/-- Function modules have the same dark count under every Micro mask. -/
theorem darkAt_function {vs : List Module} (hv : ∀ v ∈ vs, v.function = true) (cells : List (Nat × Nat)) (m m' : Nat) :
    darkAt m cells vs = darkAt m' cells vs := by
  refine List.countP_congr fun x hx => ?_
  have hx := hv x.2 (List.of_mem_zip hx).2
  simp only [maskedColour_function hx]

/-- A grid of function modules has the same colours under every mask. -/
theorem colourGrid_function {grid : List (List Module)} (hv : ∀ row ∈ grid, ∀ v ∈ row, v.function = true)
    (m m' : Nat) : colourGrid m grid = colourGrid m' grid := by
  refine List.map_congr_left fun x hx => List.map_congr_left fun y hy => ?_
  have hrow := hv x.1 (List.fst_mem_of_mem_zipIdx hx)
  have hmod := hrow y.1 (List.fst_mem_of_mem_zipIdx hy)
  simp only [maskedColour_function hmod]

/-- Equal scores select mask 0 (R264). -/
theorem selectBest_replicate (micro : Bool) (n : Nat) (x : Word) : selectBest micro (List.replicate (n + 1) x) = 0 := by
  have hall : (List.replicate (n + 1) x).all (fun y => if micro then y ≤ x else x ≤ y) = true := by
    cases micro <;> simp
  rw [selectBest]
  conv_lhs => arg 2; rw [List.replicate_succ]
  rw [List.findIdx_cons, hall, cond_true]

/-- The modules that a read of cells of a canvas with no data module answers are function modules. -/
theorem readModules_function {s : State} {cells : List (Nat × Nat)} {vs : List Module}
    (hn : ∀ x ∈ cells, isDataModule s x = false) (h : readModules s.canvas cells = .ok vs) :
    ∀ v ∈ vs, v.function = true := by
  have hall := readModules_ok h
  clear h
  induction hall with
  | nil => simp
  | cons hx _ ih =>
    intro v hv
    rcases List.mem_cons.1 hv with rfl | hv
    · have := hn _ List.mem_cons_self
      simp only [moduleKey] at hx
      simpa [isDataModule, hx] using this
    · exact ih (fun x hx => hn x (List.mem_cons_of_mem _ hx)) v hv

/-- Summing the dark modules of a canvas with no data module gives the same under every mask. -/
theorem darkSum_function {s : State} {cells : List (Nat × Nat)} (hn : ∀ x ∈ cells, isDataModule s x = false)
    (m m' : Nat) : darkSum s.canvas m cells = darkSum s.canvas m' cells := by
  unfold darkSum
  split
  · rfl
  · rename_i h
    rw [darkAt_function (readModules_function hn h) cells m m']

/-- A canvas with no data module scores the same under every candidate (R262). -/
theorem candidateScores_noData {ks : List Nat} {s : State} {l : List Word}
    (hn : ∀ r < s.cvH.toNat, ∀ c < s.cvW.toNat, isDataModule s (r, c) = false) (h : candidateScores ks s = .ok l) :
    ∃ x, l = List.replicate ks.length x := by
  have rowsFunction : ∀ {n r : Nat} {grid : List (List Module)}, r + n ≤ s.cvH.toNat →
      readRows s.canvas s.cvW.toNat r n = .ok grid → ∀ row ∈ grid, ∀ v ∈ row, v.function = true := by
    intro n
    induction n with
    | zero => rintro r _ - ⟨⟩; simp
    | succ n ih =>
      intro r grid hr he
      unfold readRows at he
      split at he
      · cases he
      · rename_i row hrow
        split at he
        · cases he
        · rename_i rows hrows
          cases he
          intro q hq
          rcases List.mem_cons.1 hq with rfl | hq
          · refine readModules_function (fun x hx => ?_) hrow
            obtain ⟨c, hc, rfl⟩ := List.mem_map.1 hx
            exact hn r (by omega) c (List.mem_range.1 hc)
          · exact ih (by omega) hrows q hq
  have microSame : ∀ m m' : Nat, microScore s.canvas s.cvH.toNat s.cvW.toNat m
      = microScore s.canvas s.cvH.toNat s.cvW.toNat m' := by
    intro m m'
    have s1 : microSum1 s.canvas s.cvH.toNat s.cvW.toNat m = microSum1 s.canvas s.cvH.toNat s.cvW.toNat m' := by
      unfold microSum1
      split
      · rfl
      · refine darkSum_function (fun x hx => ?_) m m'
        simp only [sum1Cells, List.mem_map, List.mem_range] at hx
        obtain ⟨i, hi, rfl⟩ := hx
        exact hn _ (by omega) _ (by omega)
    have s2 : microSum2 s.canvas s.cvH.toNat s.cvW.toNat m = microSum2 s.canvas s.cvH.toNat s.cvW.toNat m' := by
      unfold microSum2
      split
      · rfl
      · refine darkSum_function (fun x hx => ?_) m m'
        simp only [sum2Cells, List.mem_map, List.mem_range] at hx
        obtain ⟨i, hi, rfl⟩ := hx
        exact hn _ (by omega) _ (by omega)
    unfold microScore
    rw [s1, s2]
  have microAll : ∀ {ks : List Nat} {l : List Word}, microScores s.canvas s.cvH.toNat s.cvW.toNat ks = .ok l →
      ∀ x, microScore s.canvas s.cvH.toNat s.cvW.toNat 0 = .ok x → l = List.replicate ks.length x := by
    intro ks
    induction ks with
    | nil => rintro _ ⟨⟩ _ -; rfl
    | cons k ks ih =>
      intro l he x hx
      unfold microScores at he
      rw [microSame k 0, hx] at he
      simp only at he
      split at he
      · cases he
      · rename_i hks
        cases he
        rw [ih hks x hx]
        rfl
  unfold candidateScores at h
  split at h
  · rcases ks with _ | ⟨k, ks⟩
    · cases h; exact ⟨0#32, rfl⟩
    · rcases h0 : microScore s.canvas s.cvH.toNat s.cvW.toNat 0 with f | x
      · unfold microScores at h
        rw [microSame k 0, h0] at h
        cases h
      · exact ⟨x, microAll h x h0⟩
  · split at h
    · cases h
    · rename_i grid hgrid
      cases h
      have hf := rowsFunction (by omega) hgrid
      refine ⟨normalScore s.cvH.toNat s.cvW.toNat grid 0, List.eq_replicate_iff.2 ⟨by simp, fun y hy => ?_⟩⟩
      obtain ⟨k, -, rfl⟩ := List.mem_map.1 hy
      unfold normalScore
      rw [colourGrid_function hf k 0]
end Sys2Proof.Machine
end

