-- ==== Sys2Proof/Laws/PerInstr.lean ====
section
/-! SUPPORT. Sys2Proof/Laws/PerInstr.lean: per-command laws. Family RowMatch: the word of every well-formed command
carries the fixed bits of its row of R118. -/

namespace Sys2Proof.Laws.RowMatch

/-- The word of `i` agrees with `match` of its row wherever `mask` is set (R118). -/
def Statement (i : Instr) : Prop :=
  i.wf = true → encode i &&& (Machine.specRow (mnemonicOfInstr i)).2 = (Machine.specRow (mnemonicOfInstr i)).1

/-- An operand field below `k` zero bits and an opcode is cleared by a mask of ones above it. -/
theorem and_field {k n : Nat} (opc : BitVec 8) (x : BitVec n) :
    (opc ++ (0#k ++ x)) &&& (BitVec.allOnes 8 ++ (BitVec.allOnes k ++ 0#n)) = opc ++ (0#k ++ 0#n) := by
  rw [BitVec.and_append, BitVec.and_append, BitVec.and_allOnes, BitVec.and_allOnes, BitVec.and_zero]

theorem nop : Statement .nop := fun _ => by decide
theorem bbclr : Statement .bbclr := fun _ => by decide

theorem bbapp (n : BitVec 5) (value : BitVec 16) : Statement (.bbapp n value) := fun _ => by
  have h : ((0x02#8 ++ ((0#3 ++ n) ++ value)) &&& (0xFF#8 ++ ((0x7#3 ++ 0#5) ++ 0#16)))
      = 0x02#8 ++ ((0#3 ++ 0#5) ++ 0#16) := by
    rw [BitVec.and_append, BitVec.and_append, BitVec.and_append]
    simp
  exact h

theorem bbappb : Statement .bbappb := fun _ => by decide
theorem bbpad : Statement .bbpad := fun _ => by decide
theorem bbst : Statement .bbst := fun _ => by decide

theorem gfmul (a b : BitVec 8) : Statement (.gfmul a b) := fun _ => by
  have h : ((0x10#8 ++ ((0#8 ++ b) ++ a)) &&& (0xFF#8 ++ ((0xFF#8 ++ 0#8) ++ 0#8)))
      = 0x10#8 ++ ((0#8 ++ 0#8) ++ 0#8) := by
    rw [BitVec.and_append, BitVec.and_append, BitVec.and_append]
    simp
  exact h

theorem gfexp (e : BitVec 9) : Statement (.gfexp e) := fun _ => and_field (k := 15) 0x11#8 e
theorem gflog (a : BitVec 8) : Statement (.gflog a) := fun _ => and_field (k := 16) 0x12#8 a
theorem rsgen (k : BitVec 8) : Statement (.rsgen k) := fun _ => and_field (k := 16) 0x20#8 k
theorem rsenc : Statement .rsenc := fun _ => by decide
theorem rsblk : Statement .rsblk := fun _ => by decide
theorem ilv : Statement .ilv := fun _ => by decide
theorem cvinit : Statement .cvinit := fun _ => by decide
theorem place (rem : BitVec 8) : Statement (.place rem) := fun _ => and_field (k := 16) 0x31#8 rem
theorem mask (m : BitVec 3) : Statement (.mask m) := fun _ => and_field (k := 21) 0x32#8 m
theorem score (m : BitVec 3) : Statement (.score m) := fun _ => and_field (k := 21) 0x33#8 m
theorem scoreall : Statement .scoreall := fun _ => by decide
theorem maskbest : Statement .maskbest := fun _ => by decide
theorem fmtenc (seed : BitVec 5) : Statement (.fmtenc seed) := fun _ => and_field (k := 19) 0x40#8 seed
theorem verenc (v : BitVec 6) : Statement (.verenc v) := fun _ => and_field (k := 18) 0x41#8 v

end Sys2Proof.Laws.RowMatch
end

