-- ==== Sys2Proof/Laws/Scoring.lean ====
section
/-! SUPPORT. Sys2Proof/Laws/Scoring.lean: bounds on the penalty of a canvas of at most 177 × 177 modules (R268). -/

namespace Sys2Proof.Machine

theorem runsFrom_sum (c : Bool) : ∀ (l : List Bool) (n : Nat), (runsFrom c n l).sum = n + l.length := by
  intro l
  induction l generalizing c with
  | nil => intro n; simp [runsFrom]
  | cons x xs ih =>
    intro n; simp only [runsFrom]
    split
    · rw [ih]; simp; omega
    · simp [ih]; omega

/-- The runs of a line are the line (R256). -/
theorem runs_sum (l : List Bool) : (runs l).sum = l.length := by
  cases l with
  | nil => rfl
  | cons x xs => simp [runs, runsFrom_sum]; omega

theorem runLengths_penalty_le (l : List Nat) : (l.map (fun n => if 5 ≤ n then 3 + (n - 5) else 0)).sum ≤ l.sum := by
  induction l with
  | nil => simp
  | cons x xs ih => simp only [List.map_cons, List.sum_cons]; split <;> omega

/-- A line adds at most its length to P1. -/
theorem runPenalty_le (l : List Bool) : runPenalty l ≤ l.length := by
  rw [← runs_sum l]; exact runLengths_penalty_le _

theorem sum_le_of_le {α} (f : α → Nat) (b : Nat) : ∀ l : List α, (∀ x ∈ l, f x ≤ b) → (l.map f).sum ≤ l.length * b := by
  intro l; induction l with
  | nil => intro _; simp
  | cons x xs ih =>
    intro h; have := h x (by simp); have := ih (fun y hy => h y (by simp [hy]))
    simp only [List.map_cons, List.sum_cons, List.length_cons, Nat.add_mul]; omega

theorem blocksBetween_le : ∀ a b : List Bool, blocksBetween a b ≤ a.length - 1
  | a :: a' :: as, b :: b' :: bs => by
    have := blocksBetween_le (a' :: as) (b' :: bs)
    simp only [blocksBetween, List.length_cons] at *; split <;> omega
  | [], _ => by simp [blocksBetween]
  | [_], _ => by simp [blocksBetween]
  | _ :: _ :: _, [] => by simp [blocksBetween]
  | _ :: _ :: _, [_] => by simp [blocksBetween]

/-- The 2 × 2 windows of a grid (R257). -/
theorem blockCount2_le (w : Nat) : ∀ rows : List (List Bool), (∀ r ∈ rows, r.length = w) →
    blockCount2 rows ≤ (rows.length - 1) * (w - 1)
  | [], _ => by simp [blockCount2]
  | [_], _ => by simp [blockCount2]
  | a :: b :: l, h => by
    have h1 := blocksBetween_le a b
    have h2 := blockCount2_le w (b :: l) (fun r hr => h r (by simp [hr]))
    have h3 := h a (by simp)
    simp only [blockCount2, List.length_cons, Nat.add_sub_cancel] at *
    rw [h3] at h1; rw [Nat.add_mul]; omega

/-- No two finder-like windows start at neighbouring positions (R258). -/
theorem finder_cons (x : Bool) (xs : List Bool) (h : (x :: xs).take 11 = finderA ∨ (x :: xs).take 11 = finderB) :
    ¬(xs.take 11 = finderA ∨ xs.take 11 = finderB) := by
  rcases xs with _ | ⟨a, _ | ⟨b, _ | ⟨c, _ | ⟨d, xs⟩⟩⟩⟩ <;> simp_all [finderA, finderB]
  rcases h with ⟨-, rfl, rfl, rfl, rfl, -⟩ | ⟨-, rfl, rfl, rfl, rfl, -⟩ <;> simp

/-- So at most every other position starts one. -/
theorem finderCount_le : ∀ l : List Bool, 2 * finderCount l ≤ l.length + 1
  | [] => by simp [finderCount]
  | [x] => by simp [finderCount, finderA, finderB]
  | x :: y :: l => by
    have h := finderCount_le l
    have h1 := finder_cons x (y :: l)
    simp only [finderCount, List.length_cons]
    split <;> split <;> first | omega | (exact absurd ‹_› (h1 ‹_›))

/-- P4 is at most 100. -/
theorem penalty4_le {h w dark : Nat} (hd : dark ≤ h * w) : penalty4 h w dark ≤ 100 := by
  unfold penalty4
  split
  · omega
  · rename_i ht
    have := Nat.div_le_div_right (c := h * w)
      (show (20 * (dark : Int) - 10 * ((h * w : Nat) : Int)).natAbs ≤ 10 * (h * w) by omega)
    rw [Nat.mul_div_cancel _ (Nat.pos_of_ne_zero ht)] at this
    omega

theorem darkCount_le (w : Nat) (rows : List (List Bool)) (hr : ∀ r ∈ rows, r.length = w) : darkCount rows ≤ rows.length * w :=
  sum_le_of_le _ _ _ (fun r h => (List.count_le_length).trans (hr r h).le)

/-- The penalty is below 2,500,000 (R268). -/
theorem penalty_lt (h w : Nat) (rows : List (List Bool)) (hh : h ≤ 177) (hw : w ≤ 177) (hl : rows.length = h)
    (hr : ∀ r ∈ rows, r.length = w) : penalty h w rows < 2500000 := by
  have lines : ∀ l ∈ gridLines w rows, l.length ≤ 177 := by
    intro l hm; simp only [gridLines, gridColumns, List.mem_append, List.mem_map] at hm
    rcases hm with hm | ⟨c, _, rfl⟩
    · rw [hr l hm]; exact hw
    · rw [List.length_map, hl]; exact hh
  have count : (gridLines w rows).length ≤ 354 := by simp [gridLines, gridColumns, hl]; omega
  have p1 : penalty1 (gridLines w rows) ≤ 354 * 177 :=
    (sum_le_of_le _ 177 _ (fun l m => (runPenalty_le l).trans (lines l m))).trans (Nat.mul_le_mul_right _ count)
  have p2 : penalty2 rows ≤ 3 * (176 * 176) := by
    have := (blockCount2_le w rows hr).trans (Nat.mul_le_mul (show rows.length - 1 ≤ 176 by omega) (show w - 1 ≤ 176 by omega))
    unfold penalty2; omega
  have p3 : penalty3 (gridLines w rows) ≤ 40 * (354 * 89) :=
    Nat.mul_le_mul_left _ ((sum_le_of_le _ 89 _ (fun l m => by have := finderCount_le l; have := lines l m; omega)).trans
      (Nat.mul_le_mul_right _ count))
  have p4 : penalty4 h w (darkCount rows) ≤ 100 := penalty4_le (hl ▸ darkCount_le w rows hr)
  unfold penalty; omega

end Sys2Proof.Machine
end

