-- ==== Sys2Proof/Machine/HostProgram.lean ====
section
/-! DEFINITION. Sys2Proof/Machine/HostProgram.lean: the lines of a host program and the events they stand for
(30_encoding R123 to R125). -/

namespace Sys2Proof.Machine

/-- A register a line names: one of R32, or the port `MDATA`. -/
inductive RegName where
  | reg (r : Reg)
  | mdata
deriving DecidableEq, Repr

/-- A line of a host program (R124, R125). `polls` is how many reads of `STATUS` a `WAIT` makes before the engine's
step: the interleaving of the run (R96). -/
inductive HostLine where
  | set (r : RegName) (v : Word)
  | get (r : RegName)
  | wait (polls : Nat)
  | command (i : Instr)
  | doCommand (i : Instr) (polls : Nat)
  | mwrite (space : BitVec 2) (address : Half) (values : List Word)
  | mread (space : BitVec 2) (address : Half) (n : Nat)
  | bbbyte (b : Byte)
  | label
  | comment
deriving DecidableEq, Repr

/-- The offset of a named register (R32). -/
def nameOffset : RegName → Nat
  | .reg r => regOffset r
  | .mdata => portOffset

/-- `SET REG, v` (R125). -/
def setEvent (r : RegName) (v : Word) : Event := .host (.write (nameOffset r) 4 v)

/-- `GET REG` (R125). -/
def getEvent (r : RegName) : Event := .host (.read (nameOffset r) 4)

/-- `WAIT` (R125): reads of `STATUS` until one follows the engine's step. -/
def waitEvents (polls : Nat) : List Event :=
  List.replicate polls (getEvent (.reg .status)) ++ [.engine, getEvent (.reg .status)]

/-- `(s << 16) | a` (R125). -/
def portWord (space : BitVec 2) (address : Half) : Word := 0#14 ++ space ++ address

/-- The events a line stands for (R123, R125). -/
def lineEvents : HostLine → List Event
  | .set r v => [setEvent r v]
  | .get r => [getEvent r]
  | .wait polls => waitEvents polls
  | .command i => [setEvent (.reg .cmd) (encode i)]
  | .doCommand i polls => setEvent (.reg .cmd) (encode i) :: waitEvents polls
  | .mwrite space address values =>
    setEvent (.reg .maddr) (portWord space address) :: values.map (setEvent .mdata)
  | .mread space address n =>
    setEvent (.reg .maddr) (portWord space address) :: List.replicate n (getEvent .mdata)
  | .bbbyte b => [setEvent (.reg .cmd) (encode (.bbapp 8#5 (b.setWidth 16)))]
  | .label => []
  | .comment => []

/-- The events of a host program (R124). An engine event stands only in a `WAIT` or a `DO`, so between a command line
and the next of these every access sees `BUSY = 1`; the other orders of R96 are lists of events that no program gives
(DESIGN CHOICE, log entry 29). -/
def programEvents (lines : List HostLine) : List Event := lines.flatMap lineEvents

/-- A host program as the events to come (DESIGN CHOICE, log entry 3). -/
def loadProgram (lines : List HostLine) (s : State) : State := { s with events := programEvents lines }

end Sys2Proof.Machine
end

