-- ==== Sys2Proof/Tests/Slice0.lean ====
section
/-! SUPPORT. Sys2Proof/Tests/Slice0.lean: tests of single steps on small states, each with its expected result from spec/
(95_test_vectors names the vectors), and for every statement with hypotheses a witness that meets them. -/

namespace Sys2Proof.Tests
open Sys2Proof Sys2Proof.Machine

/-! ### Helpers -/

/-- A view of the next state, or `none` where the step stops. -/
def seen {α : Type} (f : State → α) (o : Host.Outcome State Fault Refusal) : Option α :=
  match o with
  | .next t => some (f t)
  | _ => none

/-- The fault a step stops with. -/
def faultOf (o : Host.Outcome State Fault Refusal) : Option Fault :=
  match o with
  | .fault f => some f
  | _ => none

/-- The refusal a step stops with. -/
def refusalOf (o : Host.Outcome State Fault Refusal) : Option Refusal :=
  match o with
  | .refused r => some r
  | _ => none

/-- `n` CWRAM bytes of a state. -/
def bytesSeen (a n : Nat) (s : State) : List (Option Byte) := (List.range n).map (fun i => cellRead s.cwram (a + i))

/-- The bits of a buffer from a string of 0 and 1. -/
def bits (l : List Nat) : List Bool := l.map (fun x => x == 1)

/-- A state whose CWRAM holds `bs` from address 0. -/
def withBytes (bs : List Byte) : State := { State.reset with cwram := writeBytes [] 0 bs }

/-- A cleared canvas of class `cls` in EMPTY. -/
def withCanvas (cls : CvClass) (h w : Nat) : State :=
  { State.reset with
    cvClass := cls, cvH := BitVec.ofNat 8 h, cvW := BitVec.ofNat 8 w, canvas := clearCanvas h w, cvstate := .empty }

/-- Whether a run is over, and the flags that make it unclean. -/
def cleanFlags (s : State) : Bool × Bool × Bool := (runOver s, s.haz, s.aerr)

/-- A command word in flight. -/
def inFlight (w : Word) : State := { State.reset with cmd := w, busy := true }

/-! ### Well-formedness and decoding (30_encoding R111 to R122) -/

/-- The one check refuses `BBAPP` with 17 bits (R113). -/
theorem test_wf_refuses_append_of_17 : Instr.wf (.bbapp 17#5 0#16) = false := by decide
theorem test_wf_accepts_append_of_16 : Instr.wf (.bbapp 16#5 0#16) = true := by decide

theorem test_decode_control : decode 0x00000000#32 = .ok .nop := by decide
theorem test_decode_bit_buffer :
    decode 0x01000000#32 = .ok .bbclr ∧ decode 0x020A0159#32 = .ok (.bbapp 10#5 345#16)
      ∧ decode 0x03000000#32 = .ok .bbappb ∧ decode 0x04000000#32 = .ok .bbpad
      ∧ decode 0x05000000#32 = .ok .bbst := by decide
theorem test_decode_field :
    decode 0x1000CA53#32 = .ok (.gfmul 0x53#8 0xCA#8) ∧ decode 0x110001FF#32 = .ok (.gfexp 511#9)
      ∧ decode 0x1200008E#32 = .ok (.gflog 0x8E#8) := by decide
theorem test_decode_reed_solomon :
    decode 0x20000003#32 = .ok (.rsgen 3#8) ∧ decode 0x21000000#32 = .ok .rsenc
      ∧ decode 0x22000000#32 = .ok .rsblk ∧ decode 0x23000000#32 = .ok .ilv := by decide
theorem test_decode_canvas :
    decode 0x30000000#32 = .ok .cvinit ∧ decode 0x310000D4#32 = .ok (.place 212#8)
      ∧ decode 0x32000001#32 = .ok (.mask 1#3) ∧ decode 0x33000007#32 = .ok (.score 7#3)
      ∧ decode 0x34000000#32 = .ok .scoreall ∧ decode 0x35000000#32 = .ok .maskbest := by decide
theorem test_decode_bch :
    decode 0x4000001F#32 = .ok (.fmtenc 31#5) ∧ decode 0x41000028#32 = .ok (.verenc 40#6) := by decide

/-- Vectors GF-14, GF-15, VER-X, CT-2 to CT-5. -/
theorem test_decode_illegal :
    decode 0x10010203#32 = .error .reservedBits ∧ decode 0x11000200#32 = .error .reservedBits
      ∧ decode 0x41000040#32 = .error .reservedBits ∧ decode 0xFF000000#32 = .error .unknownOpcode
      ∧ decode 0x02110000#32 = .error .appendCount ∧ decode 0x00000001#32 = .error .reservedBits
      ∧ decode 0x06000000#32 = .error .unknownOpcode := by decide

/-- `GFMUL a, b` assembles to `0x10000000 | b << 8 | a` (R122). -/
theorem test_encode_gfmul : encode (.gfmul 0x53#8 0xCA#8) = 0x1000CA53#32 := by decide
theorem test_encode_bbapp : encode (.bbapp 4#5 1#16) = 0x02040001#32 := by decide

/-- An operand out of its range is refused, never truncated (R122). -/
theorem test_assemble_refuses :
    assemble .gfexp [512] = none ∧ assemble .bbapp [17, 0] = none ∧ assemble .mask [8] = none
      ∧ assemble .gfexp [511] = some (.gfexp 511#9) := by decide

theorem test_table_word : decodeTableWord 32 0x310000D4 = some (.place 212#8) := by decide

/-! ### Control and steps -/

/-- CT-1: `NOP` after reset leaves `STATUS = 2`. -/
theorem test_nop_status : seen statusWord (step (State.reset.withFetchWord 32 0)) = some 0x00000002#32 := by decide
/-- CT-2: an unknown opcode leaves `STATUS = 0x106`, and `CMD` keeps the word. -/
theorem test_illegal_status :
    seen statusWord (step (inFlight 0xFF000000#32)) = some 0x00000106#32
      ∧ seen State.cmd (step (inFlight 0xFF000000#32)) = some 0xFF000000#32 := by decide
/-- `WAIT` with no poll is the engine's step and one read of `STATUS` (R125). -/
theorem test_wait_events :
    lineEvents (.doCommand .nop 0)
      = [.host (.write 0x0C 4 0#32), .engine, .host (.read 0x08 4)] := by decide

/-! ### Bit buffer (40_bitbuffer) -/

theorem test_bbclr : seen State.bb (exec .bbclr { State.reset with bb := bits [1, 0, 1] }) = some [] := by decide
/-- BB-3: bits of the value above `n` are ignored. -/
theorem test_bbapp_low_bits :
    seen State.bb (exec (.bbapp 4#5 0xFFF5#16) State.reset) = some (bits [0, 1, 0, 1]) := by decide
/-- BB-5: an append past `CAP` fails. -/
theorem test_bbapp_too_long :
    seen State.errcode (exec (.bbapp 1#5 1#16) { State.reset with cap := 0#16 }) = some .dataTooLong := by decide
/-- BB-17: `41 42` appended most significant bit first. -/
theorem test_bbappb :
    seen (fun t => intoBytes t.bb) (exec .bbappb { withBytes [0x41#8, 0x42#8] with len := 2#16 })
      = some [0x41#8, 0x42#8] := by decide
/-- BB-18: `8191 + 2 > 8192`. -/
theorem test_bbappb_range :
    seen State.errcode (exec .bbappb { State.reset with src := 8191#16, len := 2#16 }) = some .range := by decide
/-- BB-9: Micro M1, capacity 20: view `A8 EC 00`. -/
theorem test_bbpad_m1 :
    seen (fun t => (t.bb.length, intoBytes t.bb))
        (exec .bbpad { State.reset with symClass := 1#2, symVer := 1#6, cap := 20#16, bb := bits [1, 0, 1, 0, 1] })
      = some (20, [0xA8#8, 0xEC#8, 0x00#8]) := by decide
/-- BB-7: the terminator is cut to the two bits that remain. -/
theorem test_bbpad_cut_terminator :
    seen (fun t => intoBytes t.bb)
        (exec .bbpad { State.reset with symVer := 1#6, cap := 16#16, bb := List.replicate 14 true })
      = some [0xFF#8, 0xFC#8] := by decide
/-- R150's example: 20 bits stored at 0x100, `RESULT = 3`. -/
theorem test_bbst :
    seen (fun t => (bytesSeen 0x100 3 t, t.result))
        (exec .bbst { State.reset with
          dst := 0x100#16, bb := bits [1, 0, 1, 0, 1, 0, 0, 0, 1, 1, 1, 0, 1, 1, 0, 0, 0, 0, 0, 0] })
      = some ([some 0xA8#8, some 0xEC#8, some 0x00#8], 3#32) := by decide
/-- BB-21: one byte at 8192 is out of range; BB-20: none is not. -/
theorem test_bbst_range :
    seen State.errcode (exec .bbst { State.reset with dst := 8192#16, bb := [true] }) = some .range
      ∧ seen State.errcode (exec .bbst { State.reset with dst := 8192#16 }) = some .none := by decide

/-! ### Field arithmetic (41_gf_arith) -/

/-- GF-2 and GF-5. -/
theorem test_gfmul :
    seen State.result (exec (.gfmul 0x53#8 0xCA#8) State.reset) = some 0x8F#32
      ∧ seen State.result (exec (.gfmul 0x80#8 0x80#8) State.reset) = some 0x13#32 := by decide +kernel
/-- GF-9. -/
theorem test_gfexp : seen State.result (exec (.gfexp 300#9) State.reset) = some 0xC1#32 := by decide +kernel
/-- GF-12. -/
theorem test_gflog : seen State.result (exec (.gflog 0xFF#8) State.reset) = some 175#32 := by decide +kernel
/-- GF-13. -/
theorem test_gflog_zero : seen State.errcode (exec (.gflog 0#8) State.reset) = some .domain := by decide +kernel

/-! ### Reed–Solomon (42_reed_solomon) -/

/-- GEN-4. -/
theorem test_rsgen :
    seen (fun t => (t.gen.toList.take 6, t.gendeg)) (exec (.rsgen 4#8) State.reset)
      = some ([0x40#8, 0x78#8, 0x36#8, 0x0F#8, 0x01#8, 0x00#8], 4#8) := by decide +kernel
/-- RS-4. -/
theorem test_rsenc :
    seen (bytesSeen 16 3)
        (exec .rsenc { withBytes [0x12#8, 0x34#8] with len := 2#16, eck := 3#8, dst := 16#16 })
      = some [some 0x17#8, some 0x5B#8, some 0x6A#8] := by decide +kernel
/-- RS-7. -/
theorem test_rsenc_overlap :
    seen State.errcode (exec .rsenc { State.reset with len := 4#16, dst := 2#16, eck := 2#8 }) = some .overlap := by
  decide
/-- RS-9. -/
theorem test_rsblk :
    seen (bytesSeen 7 6)
        (exec .rsblk { withBytes [1#8, 2#8, 3#8, 4#8, 5#8, 6#8, 7#8] with
          aux := 7#16, g1 := 2#8, n1 := 2#8, g2 := 1#8, n2 := 3#8, eck := 2#8 })
      = some [some 0x01#8, some 0x02#8, some 0x05#8, some 0x02#8, some 0x28#8, some 0x2C#8] := by decide +kernel
/-- RS-10. -/
theorem test_ilv :
    seen (fun t => (bytesSeen 16 13 t, t.result))
        (exec .ilv { withBytes [1#8, 2#8, 3#8, 4#8, 5#8, 6#8, 7#8, 1#8, 2#8, 5#8, 2#8, 0x28#8, 0x2C#8] with
          aux := 7#16, dst := 16#16, g1 := 2#8, n1 := 2#8, g2 := 1#8, n2 := 3#8, eck := 2#8 })
      = some ([1#8, 3#8, 5#8, 2#8, 4#8, 6#8, 7#8, 1#8, 5#8, 0x28#8, 2#8, 2#8, 0x2C#8].map some, 13#32) := by
  decide +kernel

/-! ### Canvas, masks, scores (43_canvas_mask) -/

/-- CV-2: `CVDIM = 0x00010B0B`. -/
theorem test_cvinit_micro :
    seen (regValue .cvdim) (exec .cvinit { State.reset with symClass := 1#2, symVer := 1#6 })
      = some 0x00010B0B#32 := by decide +kernel
/-- CV-5: an rMQR canvas of height 0. -/
theorem test_cvinit_rmqr_empty :
    seen State.errcode (exec .cvinit { State.reset with symClass := 2#2 }) = some .invalidVersion := by decide
/-- The start of PATH-N1, and its step over the timing column at index 294. -/
theorem test_path_normal :
    (path 21 21 6).take 4 = [(20, 20), (20, 19), (19, 20), (19, 19)]
      ∧ (path 21 21 6)[294]? = some (0, 5) := by decide +kernel
/-- R241: the half codeword gives its 4 high bits; the path of a 3 × 3 Micro canvas starts at (2, 2). -/
theorem test_place_half :
    seen (fun t => [cellRead t.canvas 0x202, cellRead t.canvas 0x201, cellRead t.canvas 0x102, cellRead t.canvas 0x101])
        (exec (.place 2#8) { withCanvas .micro 3 3 with
          cwram := [(0, 0xAF#8)], len := 1#16, half := 0#16 })
      = some [some ⟨false, true⟩, some ⟨false, false⟩, some ⟨false, true⟩, some ⟨false, false⟩] := by decide +kernel
/-- PL-5: no bits for the modules of the path. -/
theorem test_place_mismatch :
    seen State.errcode (exec (.place 0#8) (withCanvas .micro 3 3)) = some .placeMismatch := by decide +kernel
/-- MK-5: a function module is never toggled; MK-1: `MASKSEL` of mask 0 is 0x80. -/
theorem test_mask :
    seen (fun t => (cellRead t.canvas 0, cellRead t.canvas 0x101, regValue .masksel t))
        (exec (.mask 0#3) { withCanvas .normal 2 2 with
          canvas := [(0, ⟨true, false⟩), (1, ⟨false, false⟩), (256, ⟨false, false⟩), (257, ⟨false, false⟩)] })
      = some (some ⟨true, false⟩, some ⟨false, true⟩, 0x80#32) := by decide +kernel
/-- MK-3. -/
theorem test_mask_micro_range :
    seen State.errcode (exec (.mask 4#3) (withCanvas .micro 2 2)) = some .range := by decide
/-- R262's example: a fresh 21 × 21 Normal canvas gives `SCORE 2` = 849. -/
theorem test_score_normal :
    seen State.result (exec (.score 2#3) (withCanvas .normal 21 21)) = some 849#32 := by decide +kernel
/-- SC-1: a fresh 11 × 11 Micro canvas. -/
theorem test_scoreall_micro :
    seen (fun t => (t.scores.toList, regValue .best t)) (exec .scoreall (withCanvas .micro 11 11))
      = some ([165#32, 85#32, 102#32, 85#32, 0#32, 0#32, 0#32, 0#32], 0x80#32) := by decide +kernel
/-- R267: on that canvas mask 0, Normal predicate 1, is applied: even rows become dark. -/
theorem test_maskbest_micro :
    seen (fun t => (cellRead t.canvas 0x203, cellRead t.canvas 0x303, t.cvstate)) (exec .maskbest (withCanvas .micro 11 11))
      = some (some ⟨false, true⟩, some ⟨false, false⟩, .masked) := by decide +kernel
/-- SC-8. -/
theorem test_scoreall_sequence :
    seen State.errcode (exec .scoreall { withCanvas .normal 2 2 with cvstate := .masked }) = some .sequence := by decide

/-! ### BCH codes (44_bch_info) -/

/-- FMT-4 and FMT-8. -/
theorem test_fmtenc :
    seen State.result (exec (.fmtenc 5#5) { State.reset with symVer := 1#6 }) = some 0x40CE#32
      ∧ seen State.result (exec (.fmtenc 1#5) { State.reset with symClass := 1#2, symVer := 1#6 })
        = some 0x4172#32 := by decide +kernel
/-- FMT-9. -/
theorem test_fmtenc_rmqr :
    seen State.errcode (exec (.fmtenc 0#5) { State.reset with symClass := 2#2 }) = some .unsupported := by decide
/-- VER-7 and VER-40. -/
theorem test_verenc :
    seen State.result (exec (.verenc 7#6) State.reset) = some 0x07C94#32
      ∧ seen State.result (exec (.verenc 40#6) State.reset) = some 0x28C69#32 := by decide +kernel

/-! ### The register window (10_state, 20_memory, 70_reset_and_hazards) -/

/-- CT-7. -/
theorem test_read_id : seen State.rdata (hostAccess (.read 0 4) State.reset) = some 0x51520007#32 := by decide
/-- CT-8. -/
theorem test_read_reserved :
    seen (fun t => (t.rdata, t.aerr)) (hostAccess (.read 0x80 4) State.reset) = some (0#32, true) := by decide
/-- CT-9. -/
theorem test_write_result :
    seen (fun t => (t.result, t.aerr)) (hostAccess (.write 0x38 4 5#32) State.reset) = some (0#32, true) := by decide
/-- CT-10: GEN is read-only to the port, and `MADDR` advances. -/
theorem test_port_write_gen :
    seen (fun t => (t.aerr, regValue .maddr t)) (hostAccess (.write 0x50 4 1#32) { State.reset with mspace := 2#2 })
      = some (true, 0x00020001#32) := by decide
/-- CT-12. -/
theorem test_cmd_write_while_busy :
    seen (fun t => (t.cmd, t.haz)) (hostAccess (.write 0x0C 4 5#32) (inFlight 0#32)) = some (0#32, true) := by decide
/-- CT-13: a soft reset aborts a `PLACE` in flight: the canvas becomes unwritten, CWRAM is kept. -/
theorem test_soft_reset_aborts :
    seen State.canvas
        (hostAccess (.write 0x04 4 1#32) { inFlight 0x31000000#32 with canvas := clearCanvas 2 2 }) = some []
      ∧ seen State.cwram
        (hostAccess (.write 0x04 4 1#32) { inFlight 0x31000000#32 with cwram := [(3, 7#8)] }) = some [(3, 7#8)] := by
  decide
/-- R362: the region of an `RSENC` in flight becomes unwritten. -/
theorem test_soft_reset_rsenc :
    seen State.cwram
        (hostAccess (.write 0x04 4 1#32)
          { inFlight 0x21000000#32 with eck := 2#8, dst := 1#16, cwram := writeBytes [] 0 [1#8, 2#8, 3#8, 4#8] })
      = some [(0, 1#8), (3, 4#8)] := by decide
/-- BB-16. -/
theorem test_cap_warl :
    seen (regValue .cap) (hostAccess (.write 0x28 4 0xFFFF#32) State.reset) = some 0x8000#32 := by decide
/-- R81. -/
theorem test_narrow_access : refusalOf (hostAccess (.read 0x04 2) State.reset) = some (.notAlignedWord 0x04 2) := by
  decide
/-- R101. -/
theorem test_port_read_unwritten : faultOf (hostAccess (.read 0x50 4) State.reset) = some (.unwrittenByte 0) := by
  decide
/-- R86, R87: the canvas port writes `{row, column}` and advances. -/
theorem test_port_write_canvas :
    seen (fun t => (cellRead t.canvas (moduleKey 1 1), t.maddr))
        (hostAccess (.write 0x50 4 3#32) { withCanvas .normal 2 2 with mspace := 1#2, maddr := 0x0101#16 })
      = some (some ⟨true, true⟩, 0x0102#16) := by decide
/-- CT-11: the interrupt line follows `DONE` when enabled (R330). -/
theorem test_irq : seen irq (exec .nop { State.reset with irqen := true }) = some true := by decide

/-! ### Runs (60_exceptions R342, 70_reset_and_hazards R365) -/

/-- A run is over once the host has made its last access, whatever the platform does later (R342). -/
theorem test_run_over_before_power_on :
    runOver { State.reset with haz := true, events := [.powerOn] } = true
      ∧ runOver { State.reset with events := [.powerOn, .host (.read 0x08 4)] } = false
      ∧ runOver (inFlight 0#32) = false := by decide
/-- A hazard that a later power-on reset would clear still makes the run unclean (R342). -/
theorem test_run_with_hazard_is_not_clean (t : State) :
    ¬cleanRun { State.reset with haz := true, events := [.powerOn] } t := by
  rintro ⟨⟨⟨n, hn⟩, -⟩, hz, -⟩
  cases n <;> (cases hn; cases hz)

/-- A program that issues `BBAPPB` of the byte at 0, which holds `A5`. -/
def oneByteProgram : State :=
  { State.reset with len := 1#16, cwram := [(0, 0xA5#8)], events := [.host (.write 0x0C 4 0x03000000#32), .engine] }

/-- It is a clean entry where `LEN` and the byte are named, and not where the register or the byte is not (R365). -/
theorem test_clean_entry : cleanEntry [(.len, 1#32)] [(0, 0xA5#8)] oneByteProgram := by
  refine ⟨by decide, by decide +kernel, by decide, fun n a h => ?_⟩
  rcases n with _ | _ | _ | n
  · cases h
  · cases h
  · cases h
  · have : seen State.bb (runFor (n + 3) { oneByteProgram with cwram := cwramOf [(0, 0xA5#8)] })
        = some (bits [1, 0, 1, 0, 0, 1, 0, 1]) := by cases n <;> rfl
    rw [h] at this
    cases this
theorem test_clean_entry_needs_register : ¬cleanEntry [] [(0, 0xA5#8)] oneByteProgram :=
  fun h => absurd h.2.1 (by decide +kernel)
theorem test_clean_entry_needs_byte : ¬cleanEntry [(.len, 1#32)] [] oneByteProgram :=
  fun h => h.2.2.2 2 0 rfl
/-- Its run is clean. -/
theorem test_clean_run :
    seen cleanFlags (runFor 2 oneByteProgram) = some (true, false, false) := by decide

/-! ### Witnesses: for every statement with hypotheses, states and operands that meet them, clause by clause

Each theorem is named after its obligation. Where clauses meet, the values stand at their boundary. -/

/-- O2: the largest bit count. -/
theorem witness_DecodeOfEncode : Instr.wf (.bbapp 16#5 0xFFFF#16) = true := by decide
/-- O3. -/
theorem witness_EncodeOfDecode : decode 0x0210FFFF#32 = .ok (.bbapp 16#5 0xFFFF#16) := by decide
/-- O4: both sides hold at 16 bits, and neither at 17. -/
theorem witness_WordSelectsRow :
    decode 0x02100000#32 = .ok (.bbapp 16#5 0#16) ∧ decode 0x02110000#32 = .error .appendCount := by decide
/-- O5: with no event, with the engine's event, and for a table word. -/
theorem witness_StepRunsDecodedCommand :
    ((inFlight 0x4100003F#32).busy = true ∧ decode (inFlight 0x4100003F#32).cmd = .ok (.verenc 63#6)
        ∧ (inFlight 0x4100003F#32).events = [])
      ∧ ({ inFlight 0x4100003F#32 with events := [.engine, .powerOn] } : State).events = .engine :: [.powerOn]
      ∧ decodeTableWord 32 0x4100003F = some (.verenc 63#6) := by decide
/-- O6: with no event, and with the engine's event and another. -/
theorem witness_IllegalWordCompletes :
    (inFlight 0x02110000#32).busy = true ∧ (inFlight 0x02110000#32).events = []
      ∧ ({ inFlight 0x02110000#32 with events := [.engine, .powerOn] } : State).events = .engine :: [.powerOn]
      ∧ decode (inFlight 0x02110000#32).cmd = .error .appendCount := by decide
/-- O7. -/
theorem witness_IdleEngineKeepsState :
    (State.reset.busy = false ∧ State.reset.events = [])
      ∧ ({ State.reset with events := [.engine] } : State).busy = false
      ∧ ({ State.reset with events := [.engine] } : State).events = .engine :: [] := by decide
/-- O8: both kinds of event. -/
theorem witness_StepTakesNextEvent :
    ({ State.reset with events := [.host (.read 0x08 4)] } : State).events = .host (.read 0x08 4) :: []
      ∧ ({ State.reset with events := [.powerOn] } : State).events = .powerOn :: [] := by decide
/-- O11: 17 bits; 16 bits where 15 fit; 16 bits where 16 fit. -/
theorem witness_BbappAppendsBits :
    16 < (17#5).toNat
      ∧ ((16#5).toNat ≤ 16
        ∧ ({ State.reset with cap := 15#16 } : State).cap.toNat < State.reset.bb.length + (16#5).toNat)
      ∧ State.reset.bb.length + (16#5).toNat ≤ ({ State.reset with cap := 16#16 } : State).cap.toNat := by decide

/-- A `BBAPPB` of one byte at the last address, which holds 7, into a buffer of capacity `cap`. -/
def lastByte (cap : Half) : State :=
  { State.reset with src := 8191#16, len := 1#16, cap := cap, cwram := [(8191, 7#8)] }

/-- O12: one byte past CWRAM; a capacity of 7 bits; a capacity of 8 bits. -/
theorem witness_BbappbAppendsBytes :
    ¬regionFits 8192 1
      ∧ (regionFits (lastByte 7#16).src.toNat (lastByte 7#16).len.toNat
        ∧ (lastByte 7#16).cap.toNat < (lastByte 7#16).bb.length + 8 * (lastByte 7#16).len.toNat)
      ∧ (lastByte 8#16).bb.length + 8 * (lastByte 8#16).len.toNat ≤ (lastByte 8#16).cap.toNat
      ∧ bytesWritten (lastByte 8#16) (lastByte 8#16).src.toNat (lastByte 8#16).len.toNat := by decide

/-- A state whose `SYM` holds class `c` and version `v`. -/
def withSym (c : BitVec 2) (v : BitVec 6) : State := { State.reset with symClass := c, symVer := v }

/-- O13 and O39: version 41, Micro version 5 and class 3 are invalid; rMQR of any version, Normal 40 and Micro 4 are valid. -/
theorem witness_symbols :
    ¬symOk (withSym 0#2 41#6) ∧ ¬symOk (withSym 1#2 5#6) ∧ ¬symOk (withSym 3#2 1#6)
      ∧ (symOk (withSym 2#2 0#6) ∧ (withSym 2#2 0#6).symClass = 2#2)
      ∧ (symOk (withSym 0#2 40#6) ∧ (withSym 0#2 40#6).symClass ≠ 2#2)
      ∧ symOk (withSym 1#2 4#6) ∧ (withSym 1#2 4#6).symClass ≠ 2#2 := by decide
/-- O13 and O15: a buffer one bit over `CAP`, and one exactly at it. -/
theorem witness_capacity :
    ({ withSym 0#2 1#6 with cap := 1#16, bb := [true, true] } : State).cap.toNat < [true, true].length
      ∧ [true].length ≤ ({ withSym 0#2 1#6 with cap := 1#16, bb := [true] } : State).cap.toNat := by decide
/-- O14: one byte past CWRAM, and at its last address. -/
theorem witness_BbstStoresBytes : ¬regionFits 8192 (([true].length + 7) / 8) ∧ regionFits 8191 (([true].length + 7) / 8) := by
  decide
/-- O15: every clause at one state, `CAP = 1` and two bits held. -/
theorem witness_LoweredCapacityFailsAppends :
    let s : State := { withSym 1#2 1#6 with cap := 1#16, bb := [true, true] }
    s.cap.toNat < s.bb.length ∧ (0#5).toNat ≤ 16 ∧ regionFits s.src.toNat s.len.toNat
      ∧ symOk s ∧ s.symClass ≠ 2#2 := by decide
/-- O16: the last nonzero byte of the table's period is the power 254. -/
theorem witness_ExpTableIsPrimitive : (0x8E#8 : Byte) ≠ 0#8 ∧ gfExp 254 = 0x8E#8 := by decide +kernel
/-- O18: a zero factor, and the powers 254 and 1. -/
theorem witness_GfmulGivesProduct : (0#8 : Byte) = 0#8 ∧ gfExp 254 = 0x8E#8 ∧ gfExp 1 = 2#8 := by decide +kernel
/-- O20. -/
theorem witness_GflogGivesLogarithm : (0#8 : Byte) = 0#8 ∧ (1#8 : Byte) ≠ 0#8 := by decide

/-- Two data bytes at `a`, two EC codewords to `b`. -/
def encodes (a b : Half) : State := { withBytes [1#8, 2#8] with src := a, len := 2#16, dst := b, eck := 2#8 }

/-- O22: the largest degree. -/
theorem witness_EcCodewordsVanishAtRoots : (255 : Nat) ≤ 255 := by decide
/-- O23: `DST` past the end; overlapping by one byte; adjacent regions of written data. -/
theorem witness_RsencWritesEcCodewords :
    ¬(regionFits (encodes 0#16 8191#16).src.toNat 2 ∧ regionFits (encodes 0#16 8191#16).dst.toNat 2)
      ∧ (regionFits 0 2 ∧ regionFits (encodes 0#16 1#16).dst.toNat 2
        ∧ regionsMeet (encodes 0#16 1#16).src.toNat 2 (encodes 0#16 1#16).dst.toNat 2)
      ∧ (¬regionsMeet (encodes 0#16 2#16).src.toNat 2 (encodes 0#16 2#16).dst.toNat 2
        ∧ bytesWritten (encodes 0#16 2#16) (encodes 0#16 2#16).src.toNat (encodes 0#16 2#16).len.toNat) := by decide

/-- The blocks of RS-9: two of 2 bytes and one of 3, two EC codewords each, data at 0, EC at `aux`, stream at `dst`. -/
def threeBlocks (aux dst : Half) : State :=
  { withBytes [1#8, 2#8, 3#8, 4#8, 5#8, 6#8, 7#8, 1#8, 2#8, 5#8, 2#8, 0x28#8, 0x2C#8] with
    aux := aux, dst := dst, g1 := 2#8, n1 := 2#8, g2 := 1#8, n2 := 3#8, eck := 2#8 }

/-- O24: EC past the end; overlapping; adjacent. -/
theorem witness_RsblkEncodesEveryBlock :
    ¬regionFits (threeBlocks 8187#16 0#16).aux.toNat (specEc (threeBlocks 8187#16 0#16))
      ∧ (regionFits 0 (specData (threeBlocks 6#16 0#16)) ∧ regionFits 6 (specEc (threeBlocks 6#16 0#16))
        ∧ regionsMeet (threeBlocks 6#16 0#16).src.toNat (specData (threeBlocks 6#16 0#16)) 6
            (specEc (threeBlocks 6#16 0#16)))
      ∧ (¬regionsMeet 0 (specData (threeBlocks 7#16 0#16)) 7 (specEc (threeBlocks 7#16 0#16))
        ∧ bytesWritten (threeBlocks 7#16 0#16) 0 (specData (threeBlocks 7#16 0#16))) := by decide +kernel
/-- O25: the stream past the end; overlapping the EC region by one byte; adjacent to it. -/
theorem witness_IlvInterleavesColumns :
    ¬regionFits (threeBlocks 7#16 8180#16).dst.toNat
        (specData (threeBlocks 7#16 8180#16) + specEc (threeBlocks 7#16 8180#16))
      ∧ (regionFits 12 (specData (threeBlocks 7#16 12#16) + specEc (threeBlocks 7#16 12#16))
        ∧ regionsMeet 12 (specData (threeBlocks 7#16 12#16) + specEc (threeBlocks 7#16 12#16)) 7
            (specEc (threeBlocks 7#16 12#16)))
      ∧ (¬regionsMeet 13 (specData (threeBlocks 7#16 13#16) + specEc (threeBlocks 7#16 13#16)) 0
            (specData (threeBlocks 7#16 13#16))
        ∧ ¬regionsMeet 13 (specData (threeBlocks 7#16 13#16) + specEc (threeBlocks 7#16 13#16)) 7
            (specEc (threeBlocks 7#16 13#16))
        ∧ bytesWritten (threeBlocks 7#16 13#16) 0 (specData (threeBlocks 7#16 13#16))
        ∧ bytesWritten (threeBlocks 7#16 13#16) 7 (specEc (threeBlocks 7#16 13#16))) := by decide +kernel
/-- O26: the last place of the data part, taken by the third codeword of the long block. -/
theorem witness_InterleavePlacesEachCodewordOnce :
    6 < specData (threeBlocks 7#16 13#16) ∧ specDataPos (threeBlocks 7#16 13#16) 2 2 = 6 := by decide +kernel

/-- An rMQR request of `h` rows and `w` columns. -/
def rmqr (h w : Byte) : State := { State.reset with symClass := 2#2, cvH := h, cvW := w }

/-- O27: an invalid symbol, the largest Normal and Micro symbols (`witness_symbols`), rMQR at 1 and 177, and past both. -/
theorem witness_CvinitSizesAndClears :
    (1 ≤ (rmqr 1#8 177#8).cvH.toNat ∧ (rmqr 1#8 177#8).cvH.toNat ≤ 177 ∧ 1 ≤ (rmqr 1#8 177#8).cvW.toNat
        ∧ (rmqr 1#8 177#8).cvW.toNat ≤ 177)
      ∧ ¬(1 ≤ (rmqr 0#8 1#8).cvH.toNat) ∧ ¬((rmqr 1#8 178#8).cvW.toNat ≤ 177) := by decide
/-- O28 and O29: the Normal and the Micro timing column. -/
theorem witness_paths : (21 % 2 = 1 ∧ 6 < 21) ∧ (11 % 2 = 1 ∧ 0 < 11) := by decide

/-- A 3 × 3 Micro canvas in EMPTY with one codeword at 0, whose six path modules are data modules. -/
def sixFree : State := { withCanvas .micro 3 3 with cwram := [(0, 0xAF#8)], len := 1#16 }

/-- O30: with no remainder bits the counts are 6 and 8; with a half codeword and 2 remainder bits they agree. -/
theorem witness_PlacePlacesStream :
    (sixFree.cvClass = .micro ∧ sixFree.cvstate = .empty ∧ regionFits sixFree.src.toNat sixFree.len.toNat
        ∧ ∀ x ∈ path sixFree.cvH.toNat sixFree.cvW.toNat 0, (cellRead sixFree.canvas (256 * x.1 + x.2)).isSome = true)
      ∧ ((path 3 3 0).filter (isDataModule sixFree)).length ≠ 8 * sixFree.len.toNat
      ∧ ((path 3 3 0).filter (isDataModule { sixFree with half := 0#16 })).length
        = 8 * sixFree.len.toNat - (if (0#16).toNat < sixFree.len.toNat then 4 else 0) + (2#8).toNat
      ∧ bytesWritten { sixFree with half := 0#16 } 0 1 := by decide +kernel
/-- O30, a Normal canvas. -/
theorem witness_PlacePlacesStream_normal :
    (withCanvas .normal 21 21).cvClass = .normal ∧ (withCanvas .normal 21 21).cvstate = .empty
      ∧ ∀ x ∈ path 21 21 6, (cellRead (withCanvas .normal 21 21).canvas (256 * x.1 + x.2)).isSome = true := by
  decide +kernel
/-- O31: rMQR; placed; past CWRAM. -/
theorem witness_PlaceErrorOrder :
    (withCanvas .rmqr 3 3).cvClass = .rmqr
      ∧ (State.reset.cvClass ≠ .rmqr ∧ State.reset.cvstate ≠ .empty)
      ∧ ((withCanvas .normal 3 3).cvClass ≠ .rmqr ∧ (withCanvas .normal 3 3).cvstate = .empty ∧ ¬regionFits 8192 1) := by
  decide
/-- O32: a Normal canvas with the last mask, and a Micro canvas, in PLACED, with its last candidate. -/
theorem witness_MaskTogglesDataModules :
    (maskAllowed (withCanvas .normal 3 3) ∧ isCandidate (withCanvas .normal 3 3).cvClass 7#3
        ∧ canvasWritten (withCanvas .normal 3 3))
      ∧ maskAllowed { sixFree with cvstate := .placed } ∧ isCandidate sixFree.cvClass 3#3 ∧ canvasWritten sixFree := by
  decide
/-- O33: rMQR; the states NONE and MASKED; Micro mask 4. -/
theorem witness_MaskAndScoreErrorOrder :
    (withCanvas .rmqr 3 3).cvClass = .rmqr
      ∧ (State.reset.cvClass ≠ .rmqr ∧ State.reset.cvstate = .none)
      ∧ ({ sixFree with cvstate := .masked } : State).cvstate = .masked
      ∧ (maskAllowed sixFree ∧ ¬isCandidate sixFree.cvClass 4#3) := by decide
/-- O34 and O37: a Normal canvas. -/
theorem witness_ScoreGivesPenalty :
    let s := withCanvas .normal 2 2
    s.cvClass = .normal ∧ maskAllowed s ∧ canvasWritten s ∧ 1 ≤ s.cvH.toNat ∧ 1 ≤ s.cvW.toNat := by decide
/-- O35, O37 and O38: a Micro canvas. -/
theorem witness_ScoreGivesMicroScore :
    sixFree.cvClass = .micro ∧ maskAllowed sixFree ∧ isCandidate sixFree.cvClass 3#3
      ∧ ¬isCandidate sixFree.cvClass 4#3 ∧ canvasWritten sixFree ∧ 1 ≤ sixFree.cvH.toNat ∧ 1 ≤ sixFree.cvW.toNat := by
  decide
/-- O36: a Normal canvas with its last mask. -/
theorem witness_ScoresDoNotWrap_normal :
    let s := withCanvas .normal 2 2
    maskAllowed s ∧ isCandidate s.cvClass 7#3 ∧ canvasWritten s ∧ 1 ≤ s.cvH.toNat ∧ 1 ≤ s.cvW.toNat
      ∧ s.cvClass = .normal ∧ s.cvH.toNat ≤ 177 ∧ s.cvW.toNat ≤ 177 := by decide
/-- O36: the largest Micro canvas with its last candidate. -/
theorem witness_ScoresDoNotWrap_micro :
    let s := withCanvas .micro 17 17
    maskAllowed s ∧ isCandidate s.cvClass 3#3 ∧ canvasWritten s ∧ 1 ≤ s.cvH.toNat ∧ 1 ≤ s.cvW.toNat
      ∧ s.cvClass = .micro ∧ s.cvH.toNat ≤ 17 ∧ s.cvW.toNat ≤ 17 := by decide +kernel
/-- O37 and O38: eight candidates on a Normal canvas that is written. -/
theorem witness_ScoreallSelectsBest :
    maskAllowed (withCanvas .normal 2 2) ∧ canvasWritten (withCanvas .normal 2 2)
      ∧ ∀ m : BitVec 3, isCandidate (withCanvas .normal 2 2).cvClass m := by decide
/-- O36 and O37: a canvas without modules. -/
theorem witness_ScoreallSelectsBest_noModules :
    let s : State := { withCanvas .normal 2 2 with cvH := 0#8 }
    maskAllowed s ∧ canvasWritten s ∧ ∀ r < s.cvH.toNat, ∀ c < s.cvW.toNat, isDataModule s (r, c) = false := by
  decide
/-- O37: a Micro canvas of function modules only. -/
theorem witness_ScoreallSelectsBest_noData :
    let s : State := { withCanvas .micro 1 1 with canvas := [(0, ⟨true, true⟩)] }
    maskAllowed s ∧ canvasWritten s ∧ ∀ r < s.cvH.toNat, ∀ c < s.cvW.toNat, isDataModule s (r, c) = false := by
  decide
/-- O41, O43, O49, O50: the engine is idle after reset. O44 and O48: a command in flight. O41: the full bit buffer. -/
theorem witness_busy :
    State.reset.busy = false ∧ (inFlight 0#32).busy = true ∧ (List.replicate 32768 true).length ≤ 32768 := by
  rw [List.length_replicate]; decide
/-- O42: the last error code and the last canvas state. -/
theorem witness_StatusFieldsReadBack :
    ({ State.reset with errcode := .placeMismatch } : State).errcode = .placeMismatch
      ∧ ({ State.reset with cvstate := .masked } : State).cvstate = .masked := by decide
/-- O43: a `CTRL` write that sets every bit but `SRST`. -/
theorem witness_RegisterWritesStoreFields : (0xFFFFFFFE#32 : Word).getLsbD 0 = false := by decide
/-- O46: the ends of the reserved ranges. -/
theorem witness_ReservedOffsetsSetAerr :
    0x54 % 4 = 0 ∧ 0x5C % 4 = 0 ∧ (0x80 % 4 = 0 ∧ 0x80 ≤ 0x80) ∧ (0xFC % 4 = 0 ∧ 0xFC ≤ 0xFC) := by decide
/-- O49: the last address of CWRAM, the first past it, a canvas corner, a column past it, and a space that is read only. -/
theorem witness_PortWrites :
    (State.reset.mspace = 0#2 ∧ (8191#16).toNat < 8192 ∧ ¬(8192#16).toNat < 8192)
      ∧ ((0x0101#16).toNat / 256 < (withCanvas .normal 2 2).cvH.toNat
        ∧ (0x0101#16).toNat % 256 < (withCanvas .normal 2 2).cvW.toNat)
      ∧ ¬((0x0102#16).toNat % 256 < (withCanvas .normal 2 2).cvW.toNat) := by decide
/-- O50: the last valid and the first invalid address of each space. -/
theorem witness_PortReads :
    ((8191#16).toNat < 8192 ∧ 8192 ≤ (8192#16).toNat)
      ∧ ((0x0101#16).toNat / 256 < (withCanvas .normal 2 2).cvH.toNat
        ∧ ¬((0x0200#16).toNat / 256 < (withCanvas .normal 2 2).cvH.toNat))
      ∧ ((255#16).toNat ≤ 255 ∧ 255 < (256#16).toNat)
      ∧ (4095#16).toNat < 4096 ∧ 4096 ≤ (4096#16).toNat := by decide
/-- O51: the first offset past the window; an access of two bytes; an offset that is not aligned. -/
theorem witness_MalformedAccessesRefused :
    256 ≤ 256 ∧ (0xFC < 256 ∧ 2 ≠ 4) ∧ (0xFD < 256 ∧ 0xFD % 4 ≠ 0) := by decide
/-- O52: an `RSENC` in flight that would write byte 1 and not byte 3, and a `PLACE` and a `NOP` in flight. -/
theorem witness_SoftResetAbortsAndClears :
    (1#32 : Word).getLsbD 0 = true
      ∧ (let s : State := { inFlight 0x21000000#32 with dst := 1#16, eck := 2#8 }
        s.busy = true ∧ abortsByte s 1 ∧ abortsByte s 2 ∧ ¬abortsByte s 0 ∧ ¬abortsByte s 3)
      ∧ abortsCanvas (inFlight 0x310000FF#32) ∧ ¬abortsCanvas (inFlight 0#32) := by
  refine ⟨by decide, ?_, Or.inl ⟨0xFF#8, by decide⟩, ?_⟩
  · simp only [abortsByte, show decode (inFlight 0x21000000#32).cmd = .ok .rsenc from by decide]
    decide
  · simp [abortsCanvas, inFlight, show decode 0#32 = .ok .nop from by decide]
/-- O54: a command, an accepted `CMD` write, and a `CTRL` write that clears `IRQEN`. -/
theorem witness_InterruptFollowsDone :
    exec .nop State.reset = .next (endsWith .none State.reset)
      ∧ (∃ t, hostAccess (.write 0x0C 4 0#32) State.reset = .next t)
      ∧ (0#32 : Word).getLsbD 1 = false
      ∧ ∃ t, hostAccess (.write 0x04 4 0#32) { State.reset with done := true, irqen := true } = .next t :=
  ⟨rfl, ⟨_, rfl⟩, by decide, ⟨_, rfl⟩⟩
/-- O55: a `MASKBEST` in flight on a Micro canvas meets the invariant, and its step has a next state. -/
theorem witness_StepKeepsInvariant :
    MachineInv { withCanvas .micro 3 3 with cmd := 0x35000000#32, busy := true }
      ∧ (seen State.busy (step { withCanvas .micro 3 3 with cmd := 0x35000000#32, busy := true })) = some false := by
  unfold MachineInv
  decide +kernel
/-- O57: a command that ends with an error. -/
theorem witness_ErrorsChangeNothing :
    ∃ t, exec (.bbapp 17#5 0#16) State.reset = .next t ∧ t.errcode ≠ .none :=
  ⟨endsWith .illegal State.reset, rfl, by decide⟩
/-- O58: a next state, and both faults. -/
theorem witness_CommandsComplete :
    (∃ t, exec .nop State.reset = .next t)
      ∧ exec .bbappb { State.reset with len := 1#16 } = .fault (.unwrittenByte 0)
      ∧ exec (.mask 0#3) { withCanvas .normal 2 2 with canvas := [] } = .fault (.unwrittenModule 0 0) :=
  ⟨⟨_, rfl⟩, rfl, rfl⟩
/-- O58: a command whose consumed byte, the last of CWRAM, is written; one whose consumed modules are; one that consumes
none. -/
theorem witness_CommandsComplete_written :
    (∀ x, consumesByte .bbappb (lastByte 8#16) x → (cellRead (lastByte 8#16).cwram x).isSome = true)
      ∧ (∀ r c, consumesModule .bbappb (lastByte 8#16) r c → (cellRead (lastByte 8#16).canvas (256 * r + c)).isSome = true)
      ∧ (∀ r c, consumesModule .scoreall sixFree r c → (cellRead sixFree.canvas (256 * r + c)).isSome = true)
      ∧ mnemonicOfInstr (.bbapp 17#5 0#16)
          ∉ [Mnemonic.bbappb, .rsenc, .rsblk, .ilv, .place, .mask, .score, .scoreall, .maskbest] := by
  refine ⟨fun x h => ?_, fun r c h => ?_, fun r c h => ?_, by decide⟩
  · have hx : 8191 ≤ x ∧ x < 8191 + 1 := h
    obtain rfl : x = 8191 := by omega
    rfl
  · exact h.2.2.elim
  · have written : canvasWritten sixFree := by decide
    exact written r h.1 c h.2.1
/-- O59: `BBST` writes `RESULT` and CWRAM only, `NOP` nothing; a `BBAPP` that ends with an error; `SCORE 0` writes a score
register, and the next one is another. -/
theorem witness_CommandsKeepOperands :
    (∃ t, exec .bbst { State.reset with bb := [true] } = .next t)
      ∧ (∃ t, exec (.bbapp 17#5 0#16) State.reset = .next t ∧ t.errcode ≠ .none)
      ∧ (∃ t, exec .nop State.reset = .next t)
      ∧ (seen State.errcode (exec (.score 0#3) sixFree) = some .none ∧ (1 : Fin 8).val ≠ (0#3).toNat) :=
  ⟨⟨_, rfl⟩, ⟨endsWith .illegal State.reset, rfl, by decide⟩, ⟨_, rfl⟩, by decide⟩
/-- O60: the three changes of `CVSTATE`, and a host access. -/
theorem witness_CanvasStateTable :
    seen State.cvstate (exec .cvinit (withSym 1#2 1#6)) = some .empty
      ∧ seen State.cvstate (exec (.place 2#8) { sixFree with half := 0#16 }) = some .placed
      ∧ seen State.cvstate (exec (.mask 0#3) { sixFree with cvstate := .placed }) = some .masked
      ∧ seen State.cvstate (hostAccess (.write 0x04 4 2#32) sixFree) = some .empty := by decide +kernel

end Sys2Proof.Tests
end

namespace Sys2Proof.Machine

section CommandOutcomes

variable {s t : State}

/-! ### What a command can do, said once -/

/-- The command has ended with an error (R320, R324). -/
def endsInError (s t : State) : Prop := ∃ e, t = raiseError e s

/-- What a command that ends without error has checked and read, and the state it leaves (R140 to R296). -/
def commandEffect (i : Instr) (s t : State) : Prop :=
  match i with
  | .nop => t = complete s
  | .bbclr => t = complete { s with bb := [] }
  | .bbapp n value =>
    s.bb.length + n.toNat ≤ s.cap.toNat ∧ t = complete { s with bb := appendBits s.bb value.toNat n.toNat }
  | .bbappb => ∃ bytes, readBytes s.cwram s.src.toNat s.len.toNat = .ok bytes
      ∧ s.bb.length + 8 * s.len.toNat ≤ s.cap.toNat ∧ t = complete { s with bb := s.bb ++ bitsOfBytes bytes }
  | .bbpad => ∃ term, (termBits s = some term ∧ s.bb.length ≤ s.cap.toNat)
      ∧ t = complete { s with bb := padTo s.bb s.cap.toNat term }
  | .bbst => regionFits s.dst.toNat (bbBytes s.bb) ∧ t = complete { s with
      cwram := writeBytes s.cwram s.dst.toNat (intoBytes s.bb), result := BitVec.ofNat 32 (bbBytes s.bb) }
  | .gfmul a b => t = complete { s with result := (gfMul a b).setWidth 32 }
  | .gfexp e => t = complete { s with result := (gfExp e.toNat).setWidth 32 }
  | .gflog a => ∃ k, gfLog a = some k ∧ t = complete { s with result := BitVec.ofNat 32 k }
  | .rsgen k => t = complete (loadGen k s)
  | .rsenc => regionFits s.dst.toNat s.eck.toNat
      ∧ ∃ data, readData s.cwram s.src.toNat s.len.toNat s.eck.toNat = .ok data
      ∧ t = complete (loadGen s.eck { s with cwram := writeBytes s.cwram s.dst.toNat (rsEc data s.eck.toNat) })
  | .rsblk => regionFits s.aux.toNat (ecTotal s)
      ∧ ∃ data, readData s.cwram s.src.toNat (dataTotal s) s.eck.toNat = .ok data
      ∧ t = complete (loadGen s.eck { s with
          cwram := writeBytes s.cwram s.aux.toNat (ecOfBlocks (cutBlocks (blockLens s) data) s.eck.toNat) })
  | .ilv => regionFits s.dst.toNat (dataTotal s + ecTotal s)
      ∧ ∃ data ec, readBytes s.cwram s.src.toNat (dataTotal s) = .ok data
      ∧ readBytes s.cwram s.aux.toNat (ecTotal s) = .ok ec
      ∧ t = complete { s with
          cwram := writeBytes s.cwram s.dst.toNat (interleave (blockLens s) s.eck.toNat data ec)
          result := BitVec.ofNat 32 (dataTotal s + ecTotal s) }
  | .cvinit => ∃ cls h w, canvasSize s = some (cls, h, w) ∧ t = complete { s with
      cvH := BitVec.ofNat 8 h, cvW := BitVec.ofNat 8 w, cvClass := cls, canvas := clearCanvas h w, cvstate := .empty
      masksel := { mask := 0#3, valid := false }, best := { mask := 0#3, valid := false }
      scores := Vector.replicate 8 0#32 }
  | .place rem => s.cvstate = .empty ∧ ∃ col vs bytes, timingColumn s.cvClass = some col
      ∧ readModules s.canvas (path s.cvH.toNat s.cvW.toNat col) = .ok vs
      ∧ readBytes s.cwram s.src.toNat s.len.toNat = .ok bytes
      ∧ t = complete { s with
          canvas := writeModules s.canvas ((dataCells (path s.cvH.toNat s.cvW.toNat col) vs).zip
            ((stream s.half.toNat rem.toNat bytes).map dataModule))
          cvstate := .placed
          result := BitVec.ofNat 32 (stream s.half.toNat rem.toNat bytes).length }
  | .mask m => (maskAllowed s ∧ isCandidate s.cvClass m) ∧ ∃ cv, maskedCanvas m.toNat s = .ok cv
      ∧ t = complete { s with canvas := cv, masksel := { mask := m, valid := true }, cvstate := .masked }
  | .score m => (maskAllowed s ∧ isCandidate s.cvClass m) ∧ ∃ l, candidateScores [m.toNat] s = .ok l
      ∧ t = complete { s with scores := s.scores.set m.toNat (l.headD 0#32) m.isLt, result := l.headD 0#32 }
  | .scoreall => maskAllowed s ∧ ∃ l, candidateScores (candidates (isMicro s)) s = .ok l
      ∧ t = complete (recordBest l s)
  | .maskbest => maskAllowed s ∧ ∃ l cv, candidateScores (candidates (isMicro s)) s = .ok l
      ∧ maskedCanvas (selectBest (isMicro s) l) s = .ok cv
      ∧ t = complete { recordBest l s with
          canvas := cv, masksel := { mask := BitVec.ofNat 3 (selectBest (isMicro s) l), valid := true }
          cvstate := .masked }
  | .fmtenc seed => ∃ fmask, formatMask s.symClass = some fmask
      ∧ t = complete { s with result := BitVec.ofNat 32 (fmtWord seed.toNat fmask) }
  | .verenc v => t = complete { s with result := BitVec.ofNat 32 (verWord v.toNat) }

/-- A check that ends the command with an error, or lets it go on. -/
theorem guard_next {c : Prop} [Decidable c] {e : ErrCode} {k : Host.Outcome State Fault Refusal}
    (h : (if c then .next (raiseError e s) else k) = .next t) : endsInError s t ∨ (¬c ∧ k = .next t) := by
  split at h
  · cases h; exact .inl ⟨e, rfl⟩
  · exact .inr ⟨‹_›, h⟩

theorem execBbapp_next {n : BitVec 5} {value : BitVec 16} (h : execBbapp n value s = .next t) :
    endsInError s t ∨ commandEffect (.bbapp n value) s t := by
  obtain h | ⟨-, h⟩ := guard_next h
  · exact .inl h
  obtain h | ⟨hcap, h⟩ := guard_next h
  · exact .inl h
  cases h
  exact .inr ⟨by omega, rfl⟩

theorem execBbappb_next (h : execBbappb s = .next t) : endsInError s t ∨ commandEffect .bbappb s t := by
  obtain h | ⟨-, h⟩ := guard_next h
  · exact .inl h
  obtain h | ⟨hcap, h⟩ := guard_next h
  · exact .inl h
  obtain ⟨bytes, hread, h⟩ := orFault_next h
  cases h
  exact .inr ⟨bytes, hread, by omega, rfl⟩

theorem execBbpad_next (h : execBbpad s = .next t) : endsInError s t ∨ commandEffect .bbpad s t := by
  obtain h | ⟨-, h⟩ := guard_next h
  · exact .inl h
  split at h
  · cases h; exact .inl ⟨_, rfl⟩
  · rename_i term hterm
    obtain h | ⟨hcap, h⟩ := guard_next h
    · exact .inl h
    cases h
    exact .inr ⟨term, ⟨hterm, by omega⟩, rfl⟩

theorem execBbst_next (h : execBbst s = .next t) : endsInError s t ∨ commandEffect .bbst s t := by
  obtain h | ⟨hfits, h⟩ := guard_next h
  · exact .inl h
  cases h
  exact .inr ⟨(inCwram_iff _ _).1 (by simpa using hfits), rfl⟩

theorem execGflog_next {a : Byte} (h : execGflog a s = .next t) :
    endsInError s t ∨ commandEffect (.gflog a) s t := by
  unfold execGflog at h
  split at h
  · cases h; exact .inl ⟨_, rfl⟩
  · cases h; exact .inr ⟨_, ‹_›, rfl⟩

theorem execRsenc_next (h : execRsenc s = .next t) : endsInError s t ∨ commandEffect .rsenc s t := by
  obtain h | ⟨hfits, h⟩ := guard_next h
  · exact .inl h
  obtain h | ⟨-, h⟩ := guard_next h
  · exact .inl h
  obtain ⟨data, hread, h⟩ := orFault_next h
  cases h
  simp only [Bool.not_eq_true', Bool.not_eq_false, Bool.and_eq_true, inCwram_iff] at hfits
  exact .inr ⟨hfits.2, data, hread, rfl⟩

theorem execRsblk_next (h : execRsblk s = .next t) : endsInError s t ∨ commandEffect .rsblk s t := by
  obtain h | ⟨hfits, h⟩ := guard_next h
  · exact .inl h
  obtain h | ⟨-, h⟩ := guard_next h
  · exact .inl h
  obtain ⟨data, hread, h⟩ := orFault_next h
  cases h
  simp only [Bool.not_eq_true', Bool.not_eq_false, Bool.and_eq_true, inCwram_iff] at hfits
  exact .inr ⟨hfits.2, data, hread, rfl⟩

theorem execIlv_next (h : execIlv s = .next t) : endsInError s t ∨ commandEffect .ilv s t := by
  obtain h | ⟨hfits, h⟩ := guard_next h
  · exact .inl h
  obtain h | ⟨-, h⟩ := guard_next h
  · exact .inl h
  obtain ⟨data, hdata, h⟩ := orFault_next h
  obtain ⟨ec, hec, h⟩ := orFault_next h
  cases h
  simp only [Bool.not_eq_true', Bool.not_eq_false, Bool.and_eq_true, inCwram_iff] at hfits
  exact .inr ⟨hfits.2, data, ec, hdata, hec, rfl⟩

theorem execCvinit_next (h : execCvinit s = .next t) : endsInError s t ∨ commandEffect .cvinit s t := by
  unfold execCvinit at h
  split at h
  · cases h; exact .inl ⟨_, rfl⟩
  · cases h; exact .inr ⟨_, _, _, ‹_›, rfl⟩

theorem execPlace_next {rem : BitVec 8} (h : execPlace rem s = .next t) :
    endsInError s t ∨ commandEffect (.place rem) s t := by
  unfold execPlace at h
  split at h
  · cases h; exact .inl ⟨_, rfl⟩
  rename_i col hcol
  obtain h | ⟨hempty, h⟩ := guard_next h
  · exact .inl h
  obtain h | ⟨-, h⟩ := guard_next h
  · exact .inl h
  obtain ⟨vs, hvs, h⟩ := orFault_next h
  obtain h | ⟨-, h⟩ := guard_next h
  · exact .inl h
  obtain ⟨bytes, hbytes, h⟩ := orFault_next h
  cases h
  exact .inr ⟨not_not.1 hempty, col, vs, bytes, hcol, hvs, hbytes, rfl⟩

theorem execMask_next {m : BitVec 3} (h : execMask m s = .next t) :
    endsInError s t ∨ commandEffect (.mask m) s t := by
  unfold execMask at h
  split at h
  · cases h; exact .inl ⟨_, rfl⟩
  · rename_i hok
    obtain ⟨cv, hcv, h⟩ := orFault_next h
    cases h
    exact .inr ⟨(maskIndexError_eq_none_iff m s).1 hok, cv, hcv, rfl⟩

theorem execScore_next {m : BitVec 3} (h : execScore m s = .next t) :
    endsInError s t ∨ commandEffect (.score m) s t := by
  unfold execScore at h
  split at h
  · cases h; exact .inl ⟨_, rfl⟩
  · rename_i hok
    obtain ⟨l, hl, h⟩ := orFault_next h
    cases h
    exact .inr ⟨(maskIndexError_eq_none_iff m s).1 hok, l, hl, rfl⟩

theorem execScoreall_next (h : execScoreall s = .next t) : endsInError s t ∨ commandEffect .scoreall s t := by
  unfold execScoreall at h
  split at h
  · cases h; exact .inl ⟨_, rfl⟩
  · rename_i hok
    obtain ⟨l, hl, h⟩ := orFault_next h
    cases h
    exact .inr ⟨(maskStateError_eq_none_iff s).1 hok, l, hl, rfl⟩

theorem execMaskbest_next (h : execMaskbest s = .next t) : endsInError s t ∨ commandEffect .maskbest s t := by
  unfold execMaskbest at h
  split at h
  · cases h; exact .inl ⟨_, rfl⟩
  · rename_i hok
    obtain ⟨l, hl, h⟩ := orFault_next h
    obtain ⟨cv, hcv, h⟩ := orFault_next h
    cases h
    exact .inr ⟨(maskStateError_eq_none_iff s).1 hok, l, cv, hl, hcv, rfl⟩

theorem execFmtenc_next {seed : BitVec 5} (h : execFmtenc seed s = .next t) :
    endsInError s t ∨ commandEffect (.fmtenc seed) s t := by
  obtain h | ⟨-, h⟩ := guard_next h
  · exact .inl h
  split at h
  · cases h; exact .inl ⟨_, rfl⟩
  · cases h; exact .inr ⟨_, ‹_›, rfl⟩

/-- A command that has a next state ended with an error, or had its effect. -/
theorem exec_next {i : Instr} (h : exec i s = .next t) : endsInError s t ∨ commandEffect i s t := by
  cases i with
  | nop | bbclr | gfmul | gfexp | rsgen | verenc => cases h; exact .inr rfl
  | bbapp => exact execBbapp_next h
  | bbappb => exact execBbappb_next h
  | bbpad => exact execBbpad_next h
  | bbst => exact execBbst_next h
  | gflog => exact execGflog_next h
  | rsenc => exact execRsenc_next h
  | rsblk => exact execRsblk_next h
  | ilv => exact execIlv_next h
  | cvinit => exact execCvinit_next h
  | place => exact execPlace_next h
  | mask => exact execMask_next h
  | score => exact execScore_next h
  | scoreall => exact execScoreall_next h
  | maskbest => exact execMaskbest_next h
  | fmtenc => exact execFmtenc_next h

end CommandOutcomes

section CommandFrames

variable {s t : State} {i : Instr}

/-! ### What a command leaves unchanged -/

/-- How a command's next state `t` stands to `s`: it is complete (R320), and every field that no rule lets the command
write is as it was (R47 to R61, R230). -/
structure CommandFrame (i : Instr) (s t : State) : Prop where
  completed : t.busy = false ∧ t.done = true
  operands : operandsKept s t
  control : t.cmd = s.cmd ∧ t.irqen = s.irqen ∧ t.haz = s.haz ∧ t.aerr = s.aerr
  port : t.maddr = s.maddr ∧ t.mspace = s.mspace
  own : t.events = s.events ∧ t.rdata = s.rdata ∧ t.draws = s.draws
  cvdim : i ≠ .cvinit → t.cvH = s.cvH ∧ t.cvW = s.cvW ∧ t.cvClass = s.cvClass
  result : mnemonicOfInstr i ∉ [Mnemonic.gfmul, .gfexp, .gflog, .bbst, .ilv, .place, .fmtenc, .verenc, .score,
    .scoreall, .maskbest] → t.result = s.result
  cwram : mnemonicOfInstr i ∉ [Mnemonic.bbst, .rsenc, .rsblk, .ilv] → t.cwram = s.cwram
  gen : mnemonicOfInstr i ∉ [Mnemonic.rsgen, .rsenc, .rsblk] → t.gen = s.gen ∧ t.gendeg = s.gendeg
  bb : mnemonicOfInstr i ∉ [Mnemonic.bbclr, .bbapp, .bbappb, .bbpad] → t.bb = s.bb
  canvas : mnemonicOfInstr i ∉ [Mnemonic.cvinit, .place, .mask, .maskbest] → t.canvas = s.canvas
  cvstate : mnemonicOfInstr i ∉ [Mnemonic.cvinit, .place, .mask, .maskbest] → t.cvstate = s.cvstate
  masksel : mnemonicOfInstr i ∉ [Mnemonic.cvinit, .mask, .maskbest] → t.masksel = s.masksel
  best : mnemonicOfInstr i ∉ [Mnemonic.cvinit, .scoreall, .maskbest] → t.best = s.best
  scores : mnemonicOfInstr i ∉ [Mnemonic.cvinit, .score, .scoreall, .maskbest] → t.scores = s.scores

theorem raiseError_frame (i : Instr) (e : ErrCode) (s : State) : CommandFrame i s (raiseError e s) := by
  constructor <;> simp [operandsKept]

theorem commandEffect_frame (h : commandEffect i s t) : CommandFrame i s t ∧ t.errcode = .none := by
  cases i
  case' nop | bbclr | gfmul | gfexp | rsgen | verenc => cases h
  case' bbapp | bbst => obtain ⟨-, rfl⟩ := h
  case' bbpad | gflog | fmtenc => obtain ⟨_, -, rfl⟩ := h
  case' bbappb | rsenc | rsblk | mask | score | scoreall => obtain ⟨_, _, _, rfl⟩ := h
  case' ilv | cvinit | maskbest => obtain ⟨_, _, _, _, _, rfl⟩ := h
  case' place => obtain ⟨_, _, _, _, _, _, _, rfl⟩ := h
  all_goals exact ⟨by constructor <;> simp [operandsKept, mnemonicOfInstr], rfl⟩

/-- Every command that has a next state keeps what no rule lets it write. -/
theorem exec_frame (h : exec i s = .next t) : CommandFrame i s t := by
  obtain ⟨e, rfl⟩ | h := exec_next h
  · exact raiseError_frame i e s
  · exact (commandEffect_frame h).1

/-- `SCORE m` writes the score register of `m` and no other (R54, R262). -/
theorem score_keeps_other_scores {m : BitVec 3} (h : exec (.score m) s = .next t) {n : Fin 8} (hn : n.val ≠ m.toNat) :
    t.scores[n] = s.scores[n] := by
  obtain ⟨e, rfl⟩ | ⟨-, l, -, rfl⟩ := exec_next h
  · rfl
  · exact Vector.getElem_set_ne m.isLt n.isLt hn.symm

end CommandFrames

/-- Settles O59: the frame of every command, field by field. -/
theorem commandsKeepOperands : Obligations.CommandsKeepOperands := by
  intro i s t h
  obtain ⟨-, operands, ⟨cmd, irqen, haz, aerr⟩, ⟨maddr, mspace⟩, ⟨events, rdata, draws⟩, cvdim, result, cwram, gen, bb,
    canvas, -, masksel, best, scores⟩ := exec_frame h
  refine ⟨operands, cmd, irqen, haz, aerr, maddr, mspace, events, rdata, draws, cvdim, result, fun herr => ?_, cwram, gen,
    bb, canvas, masksel, best, scores, ?_⟩
  · obtain ⟨e, rfl⟩ | heffect := exec_next h
    · rfl
    · exact absurd (commandEffect_frame heffect).2 herr
  · rintro m n rfl hn
    exact score_keeps_other_scores h hn

/-! ### Accesses of the register window, by offset -/

theorem hostAccess_read {offset : Nat} (hlt : offset < 256) (ha : offset % 4 = 0) (s : State) :
    hostAccess (.read offset 4) s = readSlot (slotAt offset) s := by
  simp [hostAccess, accessRefusal, ha, show ¬256 ≤ offset by omega]

theorem hostAccess_write {offset : Nat} (hlt : offset < 256) (ha : offset % 4 = 0) (w : Word) (s : State) :
    hostAccess (.write offset 4 w) s = .next (writeSlot (slotAt offset) w s) := by
  simp [hostAccess, accessRefusal, ha, show ¬256 ≤ offset by omega]

/-- The offset of a register is an aligned offset of the window, and the register stands there (R32). -/
theorem slotAt_regOffset (r : Reg) : regOffset r < 256 ∧ regOffset r % 4 = 0 ∧ slotAt (regOffset r) = .reg r := by
  cases r with
  | score m => revert m; decide
  | _ => decide

theorem read_reg (r : Reg) (s : State) : hostAccess (.read (regOffset r) 4) s = .next (readReg r s) := by
  obtain ⟨hlt, ha, hslot⟩ := slotAt_regOffset r
  rw [hostAccess_read hlt ha, hslot, readSlot]

theorem write_reg (r : Reg) (w : Word) (s : State) :
    hostAccess (.write (regOffset r) 4 w) s = .next (writeReg r w s) := by
  obtain ⟨hlt, ha, hslot⟩ := slotAt_regOffset r
  rw [hostAccess_write hlt ha, hslot, writeSlot]

theorem read_port (s : State) : hostAccess (.read 0x50 4) s = readPort s := rfl

theorem write_port (w : Word) (s : State) : hostAccess (.write 0x50 4 w) s = .next (writePort w s) := rfl

/-- A read of a register that is not drawn returns its value, busy or idle (R93, R372). -/
theorem read_reg_value {r : Reg} {s : State} (h : s.busy = true → drawnWhileBusy r = false) :
    hostAccess (.read (regOffset r) 4) s = .next { s with rdata := regValue r s } := by
  have hd : (s.busy && drawnWhileBusy r) = false := by
    cases hb : s.busy
    · rfl
    · simp [h hb]
  rw [read_reg, readReg, hd]
  rfl

/-- A read of a command-written register while busy draws (R372). -/
theorem read_reg_drawn {r : Reg} {s : State} (hb : s.busy = true) (hr : drawnWhileBusy r = true) :
    hostAccess (.read (regOffset r) 4) s
      = .next { s with rdata := Config.busyRead s.draws, draws := s.draws + 1 } := by
  rw [read_reg, readReg, if_pos (by simp [hb, hr])]
  rfl

/-- A write of a read-only register is an access error, busy or idle (R56). -/
theorem write_reg_readOnly {r : Reg} (hr : readOnly r = true) (w : Word) (s : State) :
    hostAccess (.write (regOffset r) 4 w) s = .next { s with aerr := true } := by
  rw [write_reg, writeReg, if_pos hr]
  rfl

/-- A write of a writable register while busy is refused, but for `CTRL` and `STATUS` (R372). -/
theorem write_reg_busy {r : Reg} {s : State} (hr : readOnly r = false) (hw : writableWhileBusy r = false)
    (hb : s.busy = true) (w : Word) : hostAccess (.write (regOffset r) 4 w) s = .next { s with haz := true } := by
  simp [write_reg, writeReg, hr, hw, hb, hazard]

/-- An accepted write stores (R34 to R46, R52). -/
theorem write_reg_accepted {r : Reg} {s : State} (hr : readOnly r = false)
    (hw : s.busy = true → writableWhileBusy r = true) (w : Word) :
    hostAccess (.write (regOffset r) 4 w) s = .next (writeIdle r w s) := by
  have hd : (s.busy && !writableWhileBusy r) = false := by
    cases hb : s.busy
    · rfl
    · simp [hw hb]
  rw [write_reg, writeReg, hr, hd]
  rfl

/-! ### Words as numbers -/

/-- A word of two fields is the low field plus the high one shifted. -/
theorem toNat_append_add {n k : Nat} (x : BitVec n) (y : BitVec k) : (x ++ y).toNat = y.toNat + 2 ^ k * x.toNat := by
  rw [BitVec.toNat_append, ← Nat.shiftLeft_add_eq_or_of_lt y.isLt, Nat.shiftLeft_eq, Nat.mul_comm, Nat.add_comm]

/-- The word of a read, given as the number it stands for. -/
theorem read_reg_number {r : Reg} {s : State} {v : Nat} (hs : s.busy = false) (hv : (regValue r s).toNat = v) :
    hostAccess (.read (regOffset r) 4) s = .next { s with rdata := BitVec.ofNat 32 v } := by
  rw [read_reg_value (by simp [hs]), ← hv, BitVec.ofNat_toNat, BitVec.setWidth_eq]

/-- Settles O41: each register's word is the number its fields stand for. -/
theorem idleRegisterReads : Obligations.IdleRegisterReads := by
  intro s hs reads
  have value (r : Reg) {v : Nat} (hv : (regValue r s).toNat = v) : reads (regOffset r) v := read_reg_number hs hv
  refine ⟨value .id rfl, value .ctrl ?_, value .cmd rfl, value .src ?_, value .dst ?_, value .aux ?_, value .len ?_,
    value .blk ?_, value .eck ?_, value .cap ?_, value .sym ?_, value .cvdim ?_, value .half ?_, value .result rfl,
    fun hbb => value .bblen ?_, value .gendeg ?_, value .masksel ?_, value .best ?_, value .maddr ?_,
    fun m => value (.score m) rfl⟩
  case refine_10 =>
    cases hc : s.cvClass <;> simp only [regValue, hc, cvClassBits, toNat_append_add, BitVec.toNat_ofNat] <;> omega
  all_goals
    simp only [regValue, maskRegWord, toNat_append_add, BitVec.toNat_ofBool, BitVec.toNat_ofNat]
    omega

/-! ### STATUS -/

theorem errFlag_iff (s : State) : errFlag s = true ↔ s.errcode ≠ .none := by
  unfold errFlag
  cases s.errcode <;> decide

/-- `STATUS` as a number (R32, R35). -/
theorem statusWord_toNat (s : State) : (statusWord s).toNat = s.busy.toNat + 2 * s.done.toNat + 4 * (errFlag s).toNat
    + 8 * s.haz.toNat + 16 * s.aerr.toNat + 256 * (errBits s.errcode).toNat + 4096 * (cvStateBits s.cvstate).toNat := by
  simp only [statusWord, toNat_append_add, BitVec.toNat_ofBool, BitVec.toNat_ofNat]
  omega

/-- The flags of `STATUS` (R32, R35). -/
theorem statusWord_flags (s : State) : (statusWord s).getLsbD 0 = s.busy ∧ (statusWord s).getLsbD 1 = s.done
    ∧ (statusWord s).getLsbD 2 = errFlag s ∧ (statusWord s).getLsbD 3 = s.haz ∧ (statusWord s).getLsbD 4 = s.aerr := by
  simp only [statusWord, BitVec.getLsbD_append]
  simp

/-- The fields of `STATUS` above its flags; the rest is 0 (R32). -/
theorem statusWord_fields (s : State) : ((statusWord s).extractLsb' 8 4).toNat = (errBits s.errcode).toNat
    ∧ ((statusWord s).extractLsb' 12 2).toNat = (cvStateBits s.cvstate).toNat
    ∧ ((statusWord s).extractLsb' 5 3).toNat = 0 ∧ ((statusWord s).extractLsb' 14 18).toNat = 0 := by
  have e := (errBits s.errcode).isLt
  have c := (cvStateBits s.cvstate).isLt
  have b : ∀ b : Bool, b.toNat ≤ 1 := Bool.toNat_le
  have := b s.busy; have := b s.done; have := b (errFlag s); have := b s.haz; have := b s.aerr
  simp only [BitVec.extractLsb'_toNat, statusWord_toNat, Nat.shiftRight_eq_div_pow]
  omega

/-- Settles O42: the bits of the word are those of its parts. -/
theorem statusFieldsReadBack : Obligations.StatusFieldsReadBack := by
  intro s
  obtain ⟨busy, done, err, haz, aerr⟩ := statusWord_flags s
  obtain ⟨code, state, zero5, zero14⟩ := statusWord_fields s
  refine ⟨statusWord s, read_reg_value (r := .status) (fun _ => rfl), busy, done, haz, aerr, err ▸ errFlag_iff s,
    fun x hx he => ?_, fun x hx hc => ?_, BitVec.eq_of_toNat_eq zero5, BitVec.eq_of_toNat_eq zero14⟩
  · rw [code, he]
    clear he
    revert x
    decide
  · rw [state, hc]
    clear hc
    revert x
    decide

/-! ### Writes -/

/-- A write of `CTRL` is accepted, busy or idle (R34, R372). -/
theorem write_ctrl (w : Word) (s : State) : hostAccess (.write 0x04 4 w) s = .next (writeCtrl w s) :=
  write_reg_accepted (r := .ctrl) rfl (fun _ => rfl) w

/-- A `CTRL` write without `SRST` stores `IRQEN` (R34). -/
theorem writeCtrl_irqen {w : Word} (hw : w.getLsbD 0 = false) (s : State) :
    writeCtrl w s = { s with irqen := w.getLsbD 1 } := by
  rw [writeCtrl, hw]
  rfl

/-- A `CTRL` write with `SRST` is a soft reset (R34). -/
theorem writeCtrl_srst {w : Word} (hw : w.getLsbD 0 = true) (s : State) : writeCtrl w s = softReset s :=
  if_pos hw

/-- `CAP` saturates (R43). -/
theorem capValue_toNat (v : Half) : (capValue v).toNat = min v.toNat Config.bbMaxBits := by
  unfold capValue Config.bbMaxBits
  split
  · omega
  · rw [BitVec.toNat_ofNat]; omega

/-- Settles O43: an accepted write stores its fields. -/
theorem registerWritesStoreFields : Obligations.RegisterWritesStoreFields := by
  intro w s
  refine ⟨fun hsrst => by rw [write_ctrl, writeCtrl_irqen hsrst], fun hs => ?_⟩
  have accepted (r : Reg) (hr : readOnly r = false) :
      hostAccess (.write (regOffset r) 4 w) s = .next (writeIdle r w s) :=
    write_reg_accepted hr (by simp [hs]) w
  exact ⟨accepted .src rfl, accepted .dst rfl, accepted .aux rfl, accepted .len rfl, accepted .blk rfl, accepted .eck rfl,
    ⟨_, accepted .cap rfl, capValue_toNat _⟩, accepted .sym rfl, accepted .cvdim rfl, accepted .half rfl,
    accepted .maddr rfl⟩

/-- Settles O44: `CMD` is writable, and not while busy. -/
theorem cmdWriteIssues : Obligations.CmdWriteIssues := fun w s =>
  ⟨fun hs => write_reg_accepted (r := .cmd) rfl (by simp [hs]) w, fun hs => write_reg_busy (r := .cmd) rfl rfl hs w⟩

/-- Settles O45: `STATUS` is writable, busy or idle. -/
theorem statusWriteClears : Obligations.StatusWriteClears := by
  intro w s
  refine ⟨writeStatus w s, write_reg_accepted (r := .status) rfl (fun _ => rfl) w, rfl, ?_, ?_, ?_⟩ <;>
    simp [writeStatus]

/-- Registers stand up to `MADDR` and from `SCORE0` to `SCORE7` (R32). -/
theorem regOffset_bounds (r : Reg) : regOffset r ≤ 0x4C ∨ (0x60 ≤ regOffset r ∧ regOffset r ≤ 0x7C) := by
  cases r with
  | score m =>
    rw [regOffset]
    omega
  | _ => decide

/-- The offsets that no register and no port has are reserved (R55). -/
theorem slotAt_reserved {offset : Nat}
    (h : offset = 0x54 ∨ offset = 0x58 ∨ offset = 0x5C ∨ (0x80 ≤ offset ∧ offset ≤ 0xFC)) :
    slotAt offset = .reserved := by
  have hnone : allRegs.find? (fun r => regOffset r == offset) = none := by
    refine List.find?_eq_none.2 fun r _ he => ?_
    have hr := regOffset_bounds r
    rw [beq_iff_eq.1 he] at hr
    omega
  rw [slotAt, if_neg (by unfold portOffset; omega), hnone]

/-- Settles O46: no register and no port stands at such an offset. -/
theorem reservedOffsetsSetAerr : Obligations.ReservedOffsetsSetAerr := by
  intro offset w s ha h
  have hlt : offset < 256 := by omega
  rw [hostAccess_read hlt ha, hostAccess_write hlt ha, slotAt_reserved h]
  exact ⟨rfl, rfl⟩

/-- Settles O47: each offset is that of a read-only register. -/
theorem readOnlyWritesSetAerr : Obligations.ReadOnlyWritesSetAerr := by
  intro w s
  have refused (r : Reg) (hr : readOnly r = true) := write_reg_readOnly hr w s
  refine ⟨fun m => refused (.score m) rfl, ?_⟩
  simp only [List.forall_mem_cons]
  exact ⟨refused .id rfl, refused .result rfl, refused .bblen rfl, refused .gendeg rfl, refused .masksel rfl,
    refused .best rfl, by simp⟩

/-- Settles O48: each offset is that of a register, by what R372 says of it, or the port's. -/
theorem busyAccesses : Obligations.BusyAccesses := by
  intro w s hs drawn
  have refused (r : Reg) (hr : readOnly r = false) (hw : writableWhileBusy r = false) := write_reg_busy hr hw hs w
  have draws (r : Reg) (hr : drawnWhileBusy r = true) := read_reg_drawn hs hr
  have answered (r : Reg) (hr : drawnWhileBusy r = false) (hv : regValue r { s with busy := false } = regValue r s) :
      ∃ v : Word, hostAccess (.read (regOffset r) 4) s = .next { s with rdata := v }
        ∧ hostAccess (.read (regOffset r) 4) { s with busy := false } = .next { s with busy := false, rdata := v } :=
    ⟨regValue r s, read_reg_value (fun _ => hr), by rw [read_reg_value (fun _ => hr), hv]⟩
  have port : hostAccess (.write 0x50 4 w) s = .next { s with haz := true } := by
    rw [write_port, writePort, if_pos hs]
    rfl
  refine ⟨?_, ?_, ?_, fun m => draws (.score m) rfl, ?_⟩
  · simp only [List.forall_mem_cons]
    exact ⟨refused .src rfl rfl, refused .dst rfl rfl, refused .aux rfl rfl, refused .len rfl rfl, refused .blk rfl rfl,
      refused .eck rfl rfl, refused .cap rfl rfl, refused .sym rfl rfl, refused .cvdim rfl rfl, refused .half rfl rfl,
      refused .maddr rfl rfl, port, by simp⟩
  · rw [read_port, readPort, if_pos hs]
    rfl
  · simp only [List.forall_mem_cons]
    exact ⟨draws .cvdim rfl, draws .result rfl, draws .bblen rfl, draws .gendeg rfl, draws .masksel rfl, draws .best rfl,
      by simp⟩
  · simp only [List.forall_mem_cons]
    exact ⟨answered .id rfl rfl, answered .ctrl rfl rfl, answered .cmd rfl rfl, answered .src rfl rfl,
      answered .dst rfl rfl, answered .aux rfl rfl, answered .len rfl rfl, answered .blk rfl rfl, answered .eck rfl rfl,
      answered .cap rfl rfl, answered .sym rfl rfl, answered .half rfl rfl, answered .maddr rfl rfl, by simp⟩

/-! ### Soft reset -/

/-- The CWRAM that an abort leaves (R362). -/
theorem cellRead_abortCwram (s : State) (x : Nat) :
    (abortsByte s x → cellRead (abortCwram s) x = none)
      ∧ (¬abortsByte s x → cellRead (abortCwram s) x = cellRead s.cwram x) := by
  unfold abortsByte abortCwram
  cases decode s.cmd with
  | error e => simp
  | ok i => cases i <;> simp +contextual [cellRead_cellErase, ecTotal_eq, dataTotal_eq, bbBytes]

/-- The canvas that an abort leaves (R362). -/
theorem abortCanvas_eq (s : State) :
    (abortsCanvas s → abortCanvas s = []) ∧ (¬abortsCanvas s → abortCanvas s = s.canvas) := by
  unfold abortsCanvas abortCanvas
  cases decode s.cmd with
  | error e => simp
  | ok i => cases i <;> simp

/-- Settles O52: the memories are those of `abortCwram` and `abortCanvas` while busy, and stay while idle. -/
theorem softResetAbortsAndClears : Obligations.SoftResetAbortsAndClears := by
  intro w s hw
  refine ⟨softReset s, by rw [write_ctrl, writeCtrl_srst hw], rfl, fun x => ?_, ?_⟩
  all_goals cases hb : s.busy
  · simp [softReset, hb]
  · simpa [softReset, hb] using cellRead_abortCwram s x
  · simp [softReset, hb]
  · simpa [softReset, hb] using abortCanvas_eq s

/-! ### The interrupt line -/

theorem irq_iff (s : State) : irq s = true ↔ s.done = true ∧ s.irqen = true := by
  simp [irq]

/-- Settles O54: every command that completes sets `DONE` and keeps `IRQEN`. -/
theorem interruptFollowsDone : Obligations.InterruptFollowsDone := by
  refine ⟨irq_iff, fun i s t h => ?_, fun w s t hs h => ?_, fun w s t hw h => ?_⟩
  · obtain ⟨-, hdone⟩ := (exec_frame h).completed
    obtain ⟨-, hirqen, -⟩ := (exec_frame h).control
    rw [irq, hdone, hirqen, Bool.true_and]
  · rw [(cmdWriteIssues w s).1 hs] at h
    cases h
    rfl
  · rw [write_ctrl] at h
    cases h
    cases hsrst : w.getLsbD 0
    · rw [writeCtrl_irqen hsrst, irq, hw, Bool.and_false]
    · rw [writeCtrl_srst hsrst]
      rfl

/-! ### Steps -/

theorem step_nil {s : State} (h : s.events = []) : step s = engineStep s := by
  rw [step, runNext, h]

theorem step_cons {s : State} {e : Event} {rest : List Event} (h : s.events = e :: rest) :
    step s = runEvent e { s with events := rest } := by
  rw [step, runNext, h]

theorem engineStep_decoded {s : State} {i : Instr} (hb : s.busy = true) (hd : decode s.cmd = .ok i) :
    engineStep s = exec i s := by
  rw [engineStep, if_pos hb, runCommand, hd]

theorem engineStep_idle {s : State} (hb : s.busy = false) : engineStep s = .next s := by
  rw [engineStep, hb]
  rfl

/-- A table row's bits that are a command are a command word (R110). -/
theorem decodeTableWord_some {nbits w : Nat} {i : Instr} (h : decodeTableWord nbits w = some i) :
    tableWord nbits w = some (BitVec.ofNat 32 (w % 2 ^ nbits)) ∧ decode (BitVec.ofNat 32 (w % 2 ^ nbits)) = .ok i := by
  unfold decodeTableWord tableWord at *
  split_ifs at * with hn
  · refine ⟨rfl, ?_⟩
    simp only at h
    split at h
    · rename_i hd
      cases h
      exact hd
    · cases h

/-- Settles O5: with the engine to step, `runNext` is `engineStep`, which is `exec` of the decoded command. -/
theorem stepRunsDecodedCommand : Obligations.StepRunsDecodedCommand := by
  refine ⟨fun s i hb hd => ⟨fun h => ?_, fun rest h => ?_⟩, fun s nbits w i h => ?_⟩
  · rw [step_nil h, engineStep_decoded hb hd]
  · rw [step_cons h]
    exact engineStep_decoded hb hd
  · obtain ⟨hword, hd⟩ := decodeTableWord_some h
    rw [State.withFetchWord, placeCommand, hword, step_cons rfl]
    exact engineStep_decoded rfl hd

/-- Settles O7: with the engine to step, `runNext` is `engineStep`. -/
theorem idleEngineKeepsState : Obligations.IdleEngineKeepsState := by
  refine fun s hb => ⟨fun h => ?_, fun rest h => ?_⟩
  · rw [step_nil h, engineStep_idle hb]
  · rw [step_cons h]
    exact engineStep_idle hb

/-! ### Host accesses, said once -/

/-- A host access that has a next state is a read or a write of an aligned word of the window (R81). -/
theorem hostAccess_next {a : Access} {s t : State} (h : hostAccess a s = .next t) :
    (∃ offset, a = .read offset 4 ∧ readSlot (slotAt offset) s = .next t)
      ∨ ∃ offset w, a = .write offset 4 w ∧ t = writeSlot (slotAt offset) w s := by
  have width {offset width : Nat} (h : accessRefusal offset width = none) : width = 4 := by
    unfold accessRefusal at h
    split_ifs at h
    omega
  cases a with
  | read offset n =>
    unfold hostAccess at h
    simp only at h
    split at h
    · cases h
    · rename_i hok
      obtain rfl := width hok
      exact .inl ⟨offset, rfl, h⟩
  | write offset n w =>
    unfold hostAccess at h
    simp only at h
    split at h
    · cases h
    · rename_i hok
      obtain rfl := width hok
      cases h
      exact .inr ⟨offset, w, rfl, rfl⟩

/-- A read changes the word returned, the counter of draws, the sticky flags and `MADDR.ADDR`, and nothing else. -/
theorem readSlot_frame {slot : Slot} {s t : State} (h : readSlot slot s = .next t) :
    t = { s with rdata := t.rdata, draws := t.draws, haz := t.haz, aerr := t.aerr, maddr := t.maddr } := by
  cases slot with
  | reg r =>
    cases h
    unfold readReg
    split <;> rfl
  | reserved => cases h; rfl
  | port =>
    unfold readSlot readPort at h
    simp only at h
    split_ifs at h
    · cases h; rfl
    · obtain ⟨v, -, h⟩ := orFault_next h
      cases h; rfl
    · cases h; rfl

/-- What holds after each way a write of a register can go holds after the write (R56, R372). -/
theorem writeReg_of {P : State → Prop} {r : Reg} {w : Word} {s : State} (refusedRead : P (accessError s))
    (refusedBusy : P (hazard s)) (accepted : P (writeIdle r w s)) : P (writeReg r w s) := by
  unfold writeReg
  split_ifs
  · exact refusedRead
  · exact refusedBusy
  · exact accepted

/-- The register that stands at an offset has that offset (R32). -/
theorem eq_regOffset_of_slotAt {offset : Nat} {r : Reg} (h : slotAt offset = .reg r) : offset = regOffset r := by
  unfold slotAt at h
  split at h
  · cases h
  · split at h
    · rename_i hfind
      cases h
      have hoffset := List.find?_some hfind
      exact (beq_iff_eq.1 hoffset).symm
    · cases h

/-- What a port write can do: be refused, store a byte, or store a module (R86, R372). -/
theorem writePort_cases (w : Word) (s : State) :
    writePort w s = hazard s ∨ writePort w s = advance (accessError s)
      ∨ (s.maddr.toNat < Config.cwBytes
        ∧ writePort w s = advance { s with cwram := cellWrite s.cwram s.maddr.toNat (w.extractLsb' 0 8) })
      ∨ writePort w s = advance { s with
          canvas := cellWrite s.canvas (moduleKey (portRow s) (portCol s)) (moduleOfBits (w.extractLsb' 0 2)) } := by
  unfold writePort
  split_ifs with hb h0 h1
  · exact .inl rfl
  · simp only [portValid, Bool.and_eq_true, beq_iff_eq] at h0
    obtain ⟨hvalid, hspace⟩ := h0
    rw [if_pos hspace] at hvalid
    exact .inr (.inr (.inl ⟨of_decide_eq_true hvalid, rfl⟩))
  · exact .inr (.inr (.inr rfl))
  · exact .inr (.inl rfl)

/-! ### CVSTATE -/

theorem writePort_cvstate (w : Word) (s : State) : (writePort w s).cvstate = s.cvstate := by
  obtain h | h | ⟨-, h⟩ | h := writePort_cases w s <;> rw [h] <;> rfl

/-- An accepted write leaves `CVSTATE`, but for a soft reset (R230). -/
theorem writeIdle_cvstate {r : Reg} {w : Word} (s : State) (hr : r = .ctrl → w.getLsbD 0 = false) :
    (writeIdle r w s).cvstate = s.cvstate := by
  cases r with
  | ctrl => rw [writeIdle, writeCtrl_irqen (hr rfl)]
  | _ => rfl

theorem hostAccess_cvstate {a : Access} {s t : State} (h : hostAccess a s = .next t)
    (ha : ∀ width w, a = .write 0x04 width w → w.getLsbD 0 = false) : t.cvstate = s.cvstate := by
  obtain ⟨offset, -, h⟩ | ⟨offset, w, rfl, rfl⟩ := hostAccess_next h
  · rw [readSlot_frame h]
  · cases hslot : slotAt offset with
    | reserved => rfl
    | port => exact writePort_cvstate w s
    | reg r =>
      refine writeReg_of (P := fun t => t.cvstate = s.cvstate) rfl rfl (writeIdle_cvstate s ?_)
      rintro rfl
      obtain rfl := eq_regOffset_of_slotAt hslot
      exact ha 4 w rfl

/-- Settles O60: four commands write `CVSTATE`, each by its effect; no host access does but a soft reset. -/
theorem canvasStateTable : Obligations.CanvasStateTable := by
  refine ⟨fun i s t h hne => ?_, fun a s t => hostAccess_cvstate⟩
  obtain ⟨e, rfl⟩ | heffect := exec_next h
  · exact absurd rfl hne
  by_cases hi : mnemonicOfInstr i ∈ [Mnemonic.cvinit, .place, .mask, .maskbest]
  · cases i
    case cvinit =>
      obtain ⟨_, _, _, -, rfl⟩ := heffect
      exact .inl ⟨rfl, rfl⟩
    case place rem =>
      obtain ⟨hempty, _, _, _, -, -, -, rfl⟩ := heffect
      exact .inr (.inl ⟨⟨rem, rfl⟩, hempty, rfl⟩)
    case mask m =>
      obtain ⟨⟨⟨-, hstate⟩, -⟩, _, -, rfl⟩ := heffect
      exact .inr (.inr ⟨.inl ⟨m, rfl⟩, hstate, rfl⟩)
    case maskbest =>
      obtain ⟨⟨-, hstate⟩, _, _, -, -, rfl⟩ := heffect
      exact .inr (.inr ⟨.inr rfl, hstate, rfl⟩)
    all_goals simp [mnemonicOfInstr] at hi
  · exact absurd ((exec_frame h).cvstate hi) hne

/-! ### Lengths of what commands write -/

@[simp] theorem genPoly_length (k : Nat) : (genPoly k).length = k + 1 := by
  induction k with
  | zero => rfl
  | succ k ih => simp [genPoly, mulRoot, ih]

theorem rsRound_length {g r : List Byte} (hg : g.length = r.length) (d : Byte) :
    (rsRound g r d).length = r.length := by
  cases r with
  | nil => rfl
  | cons r0 rest => simp [rsRound, hg]

/-- `rs_ec` gives `k` codewords (R194). -/
@[simp] theorem rsEc_length (data : List Byte) (k : Nat) : (rsEc data k).length = k := by
  unfold rsEc
  have hg : ((genPoly k).take k).reverse.length = k := by simp
  generalize ((genPoly k).take k).reverse = g at hg
  suffices h : ∀ r : List Byte, r.length = k → (data.foldl (rsRound g) r).length = k from h _ (by simp)
  induction data with
  | nil => exact fun r hr => hr
  | cons d data ih => exact fun r hr => ih _ ((rsRound_length (hg.trans hr.symm) d).trans hr)

/-- The EC region holds `k` codewords for each block (R200). -/
@[simp] theorem ecOfBlocks_length (blocks : List (List Byte)) (k : Nat) :
    (ecOfBlocks blocks k).length = blocks.length * k := by
  simp [ecOfBlocks, List.length_flatMap]

/-- A column has one entry for each block that reaches it (R205). -/
theorem column_length (blocks : List (List Byte)) (i : Nat) :
    (column blocks i).length = blocks.countP (fun b => i < b.length) := by
  induction blocks with
  | nil => rfl
  | cons b blocks ih =>
    by_cases hi : i < b.length <;> simp_all [column]

/-- The first `n` columns take at most `n` entries of each block (R205). -/
theorem columns_length (blocks : List (List Byte)) (n : Nat) :
    (columns blocks n).length = (blocks.map (fun b => min b.length n)).sum := by
  induction n with
  | zero => simp [columns]
  | succ n ih =>
    have hsucc : columns blocks (n + 1) = columns blocks n ++ column blocks n := by
      simp [columns, List.range_succ]
    rw [hsucc, List.length_append, ih, column_length]
    clear ih hsucc
    induction blocks with
    | nil => rfl
    | cons b blocks ih =>
      simp only [List.map_cons, List.sum_cons, List.countP_cons, decide_eq_true_eq]
      split <;> omega

/-- The blocks cut from a region hold no more than the region. -/
theorem cutBlocks_lengths_le {α : Type} (lens : List Nat) (xs : List α) :
    ((cutBlocks lens xs).map List.length).sum ≤ xs.length := by
  induction lens generalizing xs with
  | nil => simp [cutBlocks]
  | cons n ns ih =>
    have hrest := ih (xs.drop n)
    simp only [cutBlocks, List.map_cons, List.sum_cons, List.length_take, List.length_drop] at hrest ⊢
    omega

theorem columns_cutBlocks_le (lens : List Nat) (xs : List Byte) (n : Nat) :
    (columns (cutBlocks lens xs) n).length ≤ xs.length := by
  rw [columns_length]
  refine le_trans (List.sum_le_sum fun b _ => ?_) (cutBlocks_lengths_le lens xs)
  exact Nat.min_le_left _ _

/-- Interleaving holds no more codewords than it is given (R205). -/
theorem interleave_length_le (lens : List Nat) (k : Nat) (data ec : List Byte) :
    (interleave lens k data ec).length ≤ data.length + ec.length := by
  rw [interleave, List.length_append]
  exact Nat.add_le_add (columns_cutBlocks_le _ _ _) (columns_cutBlocks_le _ _ _)

/-- `BBPAD` fills the buffer up to its capacity (R147). -/
theorem padTo_length {bb : List Bool} {cap : Nat} (h : bb.length ≤ cap) (term : Nat) :
    (padTo bb cap term).length = cap := by
  have pad (i n : Nat) : (padBytes i n).length = n := by
    induction n generalizing i with
    | zero => rfl
    | succ n ih => simp [padBytes, ih]
  simp only [padTo, appendBits_length, List.length_append, bitsOfBytes_length, pad]
  omega

/-! ### What commands write keeps the memories canonical -/

/-- Bytes written in a region that fits keep the canonical form (R58, R90). -/
theorem writeBytes_wf_of_fits {m : List Host.Cell} {a n : Nat} {bs : List Byte} (hm : Memory.wf m)
    (hfits : regionFits a n) (hlen : bs.length ≤ n) : Memory.wf (writeBytes m a bs) := by
  obtain rfl | hbs := eq_or_ne bs []
  · exact hm
  · have hpos := List.length_pos_of_ne_nil hbs
    exact writeBytes_wf bs m a hm (by omega)

/-- `CVINIT` gives a canvas sides of at most 177 (R61, R231). -/
theorem canvasSize_le {s : State} {cls : CvClass} {h w : Nat} (hs : canvasSize s = some (cls, h, w)) :
    h ≤ 177 ∧ w ≤ 177 := by
  unfold canvasSize at hs
  split at hs
  · cases hs
  rename_i hvalid
  have hok : symOk s := (symValid_iff s).1 (by simpa using hvalid)
  split at hs
  case h_1 hc | h_2 hc =>
    cases hs
    obtain ⟨-, -, hver⟩ | ⟨-, -, hver⟩ | h2 := hok
    · omega
    · omega
    · simp [classOf, h2] at hc
  case h_3 =>
    split at hs
    · cases hs
      unfold Config.canvasMax at *
      omega
    · cases hs
  case h_4 => cases hs

/-- A cleared canvas is canonical (R231). -/
theorem clearCanvas_wf {h w : Nat} (hh : h ≤ 256) (hw : w ≤ 256) : Canvas.wf (clearCanvas h w) := by
  refine ⟨List.pairwise_flatMap.2 ⟨fun r _ => ?_, ?_⟩, fun x hx => ?_⟩
  · refine List.pairwise_map.2 (List.pairwise_lt_range.imp fun hlt => ?_)
    simp only [moduleKey]
    omega
  · refine List.pairwise_lt_range.imp fun {r r'} hlt x hx y hy => ?_
    simp only [List.mem_map, List.mem_range] at hx hy
    obtain ⟨c, hc, rfl⟩ := hx
    obtain ⟨c', -, rfl⟩ := hy
    simp only [moduleKey]
    omega
  · simp only [clearCanvas, List.mem_flatMap, List.mem_map, List.mem_range] at hx
    obtain ⟨r, hr, c, hc, rfl⟩ := hx
    simp only [moduleKey]
    omega

/-- Masking keeps the canvas canonical (R251). -/
theorem maskedCanvas_wf {m : Nat} {s : State} {cv : List (Nat × Module)} (hs : Canvas.wf s.canvas)
    (h : maskedCanvas m s = .ok cv) : Canvas.wf cv := by
  unfold maskedCanvas at h
  split at h
  · cases h
  · cases h
    refine writeModules_wf _ _ hs fun x hx => ?_
    simp only [toggled, List.mem_map, List.mem_filter] at hx
    obtain ⟨⟨cell, v⟩, ⟨hzip, -⟩, rfl⟩ := hx
    have hcell := (List.of_mem_zip hzip).1
    simp only [maskCells, allCells, List.mem_filter, List.mem_flatMap, List.mem_map, List.mem_range] at hcell
    obtain ⟨⟨r, hr, c, hc, rfl⟩, -⟩ := hcell
    exact ⟨hr.trans s.cvH.isLt, hc.trans s.cvW.isLt⟩

/-- A data module of the path is a cell of the path (R243). -/
theorem mem_dataCells {cells : List (Nat × Nat)} {vs : List Module} {x : Nat × Nat} (hx : x ∈ dataCells cells vs) :
    x ∈ cells := by
  simp only [dataCells, List.mem_map, List.mem_filter] at hx
  obtain ⟨⟨cell, v⟩, ⟨hzip, -⟩, rfl⟩ := hx
  exact (List.of_mem_zip hzip).1

/-- Placing on the path keeps the canvas canonical (R243). -/
theorem placed_wf {s : State} {col : Nat} {vs ws : List Module} (hs : Canvas.wf s.canvas) :
    Canvas.wf (writeModules s.canvas ((dataCells (path s.cvH.toNat s.cvW.toNat col) vs).zip ws)) := by
  refine writeModules_wf _ _ hs fun x hx => ?_
  obtain ⟨hr, hc, -⟩ := mem_path (mem_dataCells (List.of_mem_zip hx).1)
  exact ⟨hr.trans s.cvH.isLt, hc.trans s.cvW.isLt⟩

section Invariant

variable {s t : State}

/-! ### The invariant under each kind of update -/

theorem MachineInv.completed (h : MachineInv s) (e : ErrCode) : MachineInv (endsWith e s) := by
  obtain ⟨cwram, canvas, bb, cap, gen, -, masked, cls⟩ := h
  exact ⟨cwram, canvas, bb, cap, gen, nofun, masked, cls⟩

theorem MachineInv.setBb (h : MachineInv s) {bb : List Bool} (hbb : bb.length ≤ Config.bbMaxBits) :
    MachineInv { s with bb := bb } := by
  obtain ⟨cwram, canvas, -, rest⟩ := h
  exact ⟨cwram, canvas, hbb, rest⟩

theorem MachineInv.setCwram (h : MachineInv s) {m : List Host.Cell} (hm : Memory.wf m) :
    MachineInv { s with cwram := m } := by
  obtain ⟨-, rest⟩ := h
  exact ⟨hm, rest⟩

theorem MachineInv.setCanvas (h : MachineInv s) {cv : List (Nat × Module)} (hcv : Canvas.wf cv) :
    MachineInv { s with canvas := cv } := by
  obtain ⟨cwram, -, rest⟩ := h
  exact ⟨cwram, hcv, rest⟩

theorem MachineInv.loadGen (h : MachineInv s) (k : Byte) : MachineInv (loadGen k s) := by
  obtain ⟨cwram, canvas, bb, cap, -, rest⟩ := h
  exact ⟨cwram, canvas, bb, cap, rfl, rest⟩

/-! A mask is recorded exactly in MASKED (R50, R230), and only `CVINIT` sets the class, leaving NONE (R63). -/

theorem MachineInv.cleared (h : MachineInv s) {cv : List (Nat × Module)} (hcv : Canvas.wf cv) (cls : CvClass)
    (mask : BitVec 3) : MachineInv { s with
      cvClass := cls, canvas := cv, cvstate := .empty, masksel := { mask := mask, valid := false } } := by
  obtain ⟨cwram, -, bb, cap, gen, busy, -, -⟩ := h
  exact ⟨cwram, hcv, bb, cap, gen, busy, by simp, nofun⟩

theorem MachineInv.placed (h : MachineInv s) {cv : List (Nat × Module)} (hcv : Canvas.wf cv)
    (hempty : s.cvstate = .empty) : MachineInv { s with canvas := cv, cvstate := .placed } := by
  obtain ⟨cwram, -, bb, cap, gen, busy, masked, -⟩ := h
  rw [hempty] at masked
  exact ⟨cwram, hcv, bb, cap, gen, busy, by simpa using masked, nofun⟩

theorem MachineInv.masked (h : MachineInv s) {cv : List (Nat × Module)} (hcv : Canvas.wf cv) (m : BitVec 3) :
    MachineInv { s with canvas := cv, masksel := { mask := m, valid := true }, cvstate := .masked } := by
  obtain ⟨cwram, -, bb, cap, gen, busy, -, -⟩ := h
  exact ⟨cwram, hcv, bb, cap, gen, busy, by simp, nofun⟩

/-! ### Commands -/

theorem commandEffect_inv {i : Instr} (h : MachineInv s) (he : commandEffect i s t) : MachineInv t := by
  have ⟨hcwram, hcanvas, _, hmax, _⟩ := h
  cases i with
  | nop | gfmul | gfexp | verenc => cases he; exact h.completed .none
  | bbclr => cases he; exact (h.setBb (Nat.zero_le _)).completed .none
  | bbapp n value =>
    obtain ⟨hcap, rfl⟩ := he
    exact (h.setBb (by rw [appendBits_length]; omega)).completed .none
  | bbappb =>
    obtain ⟨bytes, hread, hcap, rfl⟩ := he
    have hlen := (readBytes_ok hread).1
    exact (h.setBb (by rw [List.length_append, bitsOfBytes_length]; omega)).completed .none
  | bbpad =>
    obtain ⟨term, ⟨-, hcap⟩, rfl⟩ := he
    exact (h.setBb (by rwa [padTo_length hcap])).completed .none
  | bbst =>
    obtain ⟨hfits, rfl⟩ := he
    exact (h.setCwram (writeBytes_wf_of_fits hcwram hfits (intoBytes_length _).le)).completed .none
  | gflog | fmtenc =>
    obtain ⟨_, -, rfl⟩ := he
    exact h.completed .none
  | rsgen k => cases he; exact (h.loadGen k).completed .none
  | rsenc =>
    obtain ⟨hfits, data, -, rfl⟩ := he
    exact ((h.setCwram (writeBytes_wf_of_fits hcwram hfits (rsEc_length _ _).le)).loadGen _).completed .none
  | rsblk =>
    obtain ⟨hfits, data, -, rfl⟩ := he
    have hlen : (ecOfBlocks (cutBlocks (blockLens s) data) s.eck.toNat).length = ecTotal s := by
      simp [ecTotal, blockCount, specBlocks]
    exact ((h.setCwram (writeBytes_wf_of_fits hcwram hfits hlen.le)).loadGen _).completed .none
  | ilv =>
    obtain ⟨hfits, data, ec, hdata, hec, rfl⟩ := he
    have hlen := interleave_length_le (blockLens s) s.eck.toNat data ec
    rw [(readBytes_ok hdata).1, (readBytes_ok hec).1] at hlen
    exact (h.setCwram (writeBytes_wf_of_fits hcwram hfits hlen)).completed .none
  | cvinit =>
    obtain ⟨cls, height, width, hsize, rfl⟩ := he
    obtain ⟨hh, hw⟩ := canvasSize_le hsize
    have hcv := clearCanvas_wf (hh.trans (by decide)) (hw.trans (by decide))
    exact (h.cleared hcv cls 0#3).completed .none
  | place rem =>
    obtain ⟨hempty, col, vs, bytes, -, -, -, rfl⟩ := he
    exact (h.placed (placed_wf hcanvas) hempty).completed .none
  | mask m =>
    obtain ⟨-, cv, hcv, rfl⟩ := he
    exact (h.masked (maskedCanvas_wf hcanvas hcv) _).completed .none
  | score | scoreall =>
    obtain ⟨-, l, -, rfl⟩ := he
    exact h.completed .none
  | maskbest =>
    obtain ⟨-, l, cv, -, hcv, rfl⟩ := he
    exact (h.masked (maskedCanvas_wf hcanvas hcv) _).completed .none

theorem exec_inv {i : Instr} (h : MachineInv s) (he : exec i s = .next t) : MachineInv t := by
  obtain ⟨e, rfl⟩ | he := exec_next he
  · exact h.completed e
  · exact commandEffect_inv h he

theorem engineStep_inv (h : MachineInv s) (he : engineStep s = .next t) : MachineInv t := by
  unfold engineStep runCommand at he
  split_ifs at he
  · split at he
    · exact exec_inv h he
    · cases he
      exact h.completed .illegal
  · cases he
    exact h

/-! ### Host accesses and resets -/

/-- Entry `i` of `GEN` is coefficient `i`, and 0 past the last one (R59). -/
theorem genFile_get (c : List Byte) {i : Nat} (hi : i < 256) : (genFile c)[i] = c.getD i 0#8 := by
  have hlen : i < ((c ++ List.replicate 256 0#8).take 256).length := by
    rw [List.length_take, List.length_append, List.length_replicate]
    omega
  have hget : (genFile c)[i] = ((c ++ List.replicate 256 0#8).take 256)[i] := rfl
  rw [hget, List.getElem_take, List.getElem_append]
  split
  · rw [List.getD_eq_getElem]
  · rw [List.getElem_replicate, List.getD_eq_default _ _ (by omega)]

theorem genReset_eq : genReset = genFile (genPoly 0) := by
  ext i hi
  rw [genFile_get _ hi, genReset, Vector.getElem_set, Vector.getElem_replicate]
  cases i <;> simp [genPoly]

/-- A reset with canonical memories meets the invariant, whatever the model's own fields hold. -/
theorem reset_inv {m : List Host.Cell} {cv : List (Nat × Module)} {events : List Event} {rdata : Word} {draws : Nat}
    (hm : Memory.wf m) (hcv : Canvas.wf cv) :
    MachineInv { State.reset with cwram := m, canvas := cv, events := events, rdata := rdata, draws := draws } :=
  have hcap : State.reset.cap.toNat ≤ Config.bbMaxBits := by decide
  have hmask : State.reset.masksel.valid = true ↔ State.reset.cvstate = .masked := by decide
  ⟨hm, hcv, Nat.zero_le _, hcap, genReset_eq, nofun, hmask, fun _ => rfl⟩

theorem abortCwram_wf (h : Memory.wf s.cwram) : Memory.wf (abortCwram s) := by
  unfold abortCwram
  split
  case h_5 => exact h
  all_goals exact cellErase_wf _ _ h

theorem abortCanvas_wf (h : Canvas.wf s.canvas) : Canvas.wf (abortCanvas s) := by
  by_cases ha : abortsCanvas s
  · rw [(abortCanvas_eq s).1 ha]
    decide
  · rwa [(abortCanvas_eq s).2 ha]

theorem softReset_inv (h : MachineInv s) : MachineInv (softReset s) := by
  refine reset_inv ?_ ?_
  · split_ifs
    · exact abortCwram_wf h.1
    · exact h.1
  · split_ifs
    · exact abortCanvas_wf h.2.1
    · exact h.2.1

theorem writeStatus_inv (h : MachineInv s) (w : Word) : MachineInv (writeStatus w s) := by
  obtain ⟨cwram, canvas, bb, cap, gen, busy, rest⟩ := h
  exact ⟨cwram, canvas, bb, cap, gen, fun hb => ⟨by simp [writeStatus, (busy hb).1], (busy hb).2⟩, rest⟩

theorem issue_inv (h : MachineInv s) (w : Word) : MachineInv (issue w s) := by
  obtain ⟨cwram, canvas, bb, cap, gen, -, rest⟩ := h
  exact ⟨cwram, canvas, bb, cap, gen, fun _ => ⟨rfl, rfl⟩, rest⟩

theorem writeCap_inv (h : MachineInv s) (v : Half) : MachineInv { s with cap := capValue v } := by
  obtain ⟨cwram, canvas, bb, -, rest⟩ := h
  exact ⟨cwram, canvas, bb, (capValue_toNat v).trans_le (Nat.min_le_right _ _), rest⟩

theorem writeIdle_inv (h : MachineInv s) (r : Reg) (w : Word) : MachineInv (writeIdle r w s) := by
  cases r with
  | ctrl =>
    cases hw : w.getLsbD 0
    · rw [writeIdle, writeCtrl_irqen hw]; exact h
    · rw [writeIdle, writeCtrl_srst hw]; exact softReset_inv h
  | status => exact writeStatus_inv h w
  | cmd => exact issue_inv h w
  | cap => exact writeCap_inv h _
  | _ => exact h

theorem writePort_inv (h : MachineInv s) (w : Word) : MachineInv (writePort w s) := by
  obtain hw | hw | ⟨hlt, hw⟩ | hw := writePort_cases w s <;> rw [hw]
  · exact h
  · exact h
  · exact h.setCwram (cellWrite_wf _ h.1 hlt)
  · exact h.setCanvas (cellWrite_wf _ h.2.1 (by rw [portRow, portCol, moduleKey_port]; exact s.maddr.isLt))

theorem hostAccess_inv {a : Access} (h : MachineInv s) (ha : hostAccess a s = .next t) : MachineInv t := by
  obtain ⟨offset, -, ha⟩ | ⟨offset, w, -, rfl⟩ := hostAccess_next ha
  · rw [readSlot_frame ha]
    exact h
  · cases slotAt offset with
    | reserved => exact h
    | port => exact writePort_inv h w
    | reg r => exact writeReg_of (P := MachineInv) h h (writeIdle_inv h r w)

/-! ### Every step -/

theorem runEvent_inv {e : Event} (h : MachineInv s) (he : runEvent e s = .next t) : MachineInv t := by
  cases e with
  | host a => exact hostAccess_inv h he
  | engine => exact engineStep_inv h he
  | powerOn =>
    cases he
    exact reset_inv reset_memories_wf.1 reset_memories_wf.2

end Invariant

/-- Settles O55: the engine, the host and the platform each keep the invariant, and which events are to come is no part
of it. -/
theorem stepKeepsInvariant : Obligations.StepKeepsInvariant := by
  intro s t h hstep
  cases hevents : s.events with
  | nil => exact engineStep_inv h (step_nil hevents ▸ hstep)
  | cons e rest => exact runEvent_inv (s := { s with events := rest }) h (step_cons hevents ▸ hstep)

theorem runFor_of_over {s : State} (h : runOver s = true) (n : Nat) : runFor n s = .next s := by
  cases n with
  | zero => rfl
  | succ n => rw [runFor, if_pos h]

/-- Settles O56: the run from reset is over at once. -/
theorem resetMeetsInvariant : Obligations.ResetMeetsInvariant := by
  have hover : runOver State.reset = true := rfl
  have registers : registersAs [] State.reset = true := by
    simp [registersAs, show State.reset.gen = genReset from rfl, show State.reset.bb = [] from rfl]
  refine ⟨reset_inv reset_memories_wf.1 reset_memories_wf.2, ⟨rfl, registers, by simp, fun n a h => ?_⟩,
    ⟨⟨0, rfl⟩, hover⟩, rfl, rfl⟩
  have hrun : runFor n { State.reset with cwram := cwramOf [] } = .next State.reset := runFor_of_over hover n
  rw [hrun] at h
  cases h

/-! ### Scores, candidate by candidate -/

theorem microScores_ok {m : List (Nat × Module)} {h w : Nat} {ks : List Nat} {l : List Word}
    (hl : microScores m h w ks = .ok l) : List.Forall₂ (fun k v => microScore m h w k = .ok v) ks l := by
  induction ks generalizing l with
  | nil => cases hl; exact .nil
  | cons k ks ih =>
    unfold microScores at hl
    split at hl
    · cases hl
    · rename_i v hv
      split at hl
      · cases hl
      · rename_i hvs
        cases hl
        exact .cons hv (ih hvs)

/-- Scoring a list of candidates gives each the score it has alone (R264). -/
theorem candidateScores_each {ks : List Nat} {s : State} {l : List Word} (hl : candidateScores ks s = .ok l) :
    List.Forall₂ (fun k v => candidateScores [k] s = .ok [v]) ks l := by
  unfold candidateScores at *
  split_ifs at * with hm
  · refine (microScores_ok hl).imp fun k v hv => ?_
    simp [microScores, hv]
  · split at hl
    · cases hl
    · cases hl
      simp [List.forall₂_map_right_iff, List.forall₂_same]

/-- Scoring a written canvas has no fault (R101). -/
theorem candidateScores_of_written {s : State} (hs : maskAllowed s) (hw : canvasWritten s) (ks : List Nat) :
    ∃ l, candidateScores ks s = .ok l := by
  cases hl : candidateScores ks s with
  | ok l => exact ⟨l, rfl⟩
  | error f =>
    obtain ⟨r, c, -, hr, hc, -, hn⟩ := candidateScores_error hs.1 hl
    have := hw r hr c hc
    rw [hn] at this
    cases this

/-- `SCORE m` records and returns the candidate's score (R262). -/
theorem exec_score_of_scores {m : BitVec 3} {s : State} {v : Word} (hs : maskAllowed s) (hm : isCandidate s.cvClass m)
    (hv : candidateScores [m.toNat] s = .ok [v]) :
    exec (.score m) s = .next { endsWith .none s with scores := s.scores.set m.toNat v m.isLt, result := v } := by
  rw [show exec (.score m) s = execScore m s from rfl, execScore, (maskIndexError_eq_none_iff m s).2 ⟨hs, hm⟩, hv]
  rfl

/-- `SCOREALL` records the scores and the selection (R264). -/
theorem exec_scoreall_of_scores {s : State} {l : List Word} (hs : maskAllowed s)
    (hl : candidateScores (candidates (isMicro s)) s = .ok l) : exec .scoreall s = .next (complete (recordBest l s)) := by
  rw [show exec .scoreall s = execScoreall s from rfl, execScoreall, (maskStateError_eq_none_iff s).2 hs, hl]
  rfl

/-! ### The selection -/

/-- `x` is no worse than `y`: at most it on a Normal canvas, at least it on a Micro canvas (R266). -/
def noWorse (micro : Bool) (x y : Word) : Prop := if micro then y ≤ x else x ≤ y

theorem noWorse_trans {micro : Bool} {x y z : Word} (h : noWorse micro x y) (h' : noWorse micro y z) :
    noWorse micro x z := by
  cases micro
  · exact BitVec.le_trans h h'
  · exact BitVec.le_trans h' h

/-- The selected score is no worse than any, and every candidate before it is strictly worse (R266). -/
theorem selectBest_spec {micro : Bool} {l : List Word} (hlt : selectBest micro l < l.length) :
    (∀ j < l.length, noWorse micro (l.getD (selectBest micro l) 0#32) (l.getD j 0#32))
      ∧ ∀ j < selectBest micro l, ¬noWorse micro (l.getD j 0#32) (l.getD (selectBest micro l) 0#32) := by
  have best : ∀ y ∈ l, noWorse micro l[selectBest micro l] y := by
    have h : l.all (fun y => if micro then y ≤ l[selectBest micro l] else l[selectBest micro l] ≤ y) = true :=
      List.findIdx_getElem (xs := l) (w := hlt)
    simpa [noWorse] using h
  refine ⟨fun j hj => ?_, fun j hj hle => ?_⟩
  · rw [List.getD_eq_getElem _ _ hlt, List.getD_eq_getElem _ _ hj]
    exact best _ (List.getElem_mem hj)
  · have h := List.not_of_lt_findIdx hj
    rw [List.all_eq_false] at h
    obtain ⟨y, hy, hworse⟩ := h
    rw [List.getD_eq_getElem _ _ hlt, List.getD_eq_getElem _ _ (hj.trans hlt)] at hle
    exact hworse (by simpa [noWorse] using noWorse_trans hle (best y hy))

theorem setScores_of_lt (old : Vector Word 8) {l : List Word} {i : Nat} (hi : i < 8) (hl : i < l.length) :
    (setScores old l)[i] = l.getD i 0#32 := by
  simp [setScores, hl]

theorem setScores_of_le (old : Vector Word 8) {l : List Word} {i : Nat} (hi : i < 8) (hl : l.length ≤ i) :
    (setScores old l)[i] = old[i] := by
  simp [setScores, hl]

/-- The candidates are the indices below their number (R263). -/
theorem lt_candidates_length_iff (s : State) (m : BitVec 3) :
    m.toNat < (candidates (isMicro s)).length ↔ isCandidate s.cvClass m := by
  unfold candidates isMicro isCandidate
  cases s.cvClass <;> simp <;> omega

/-- The score recorded for a candidate is the one `SCORE` of it gives (R264). -/
theorem candidateScores_get {s : State} {l : List Word} (hl : candidateScores (candidates (isMicro s)) s = .ok l)
    {m : BitVec 3} (hm : m.toNat < l.length) : candidateScores [m.toNat] s = .ok [l.getD m.toNat 0#32] := by
  have hmem : m.toNat < (candidates (isMicro s)).length := candidateScores_length hl ▸ hm
  have each := (candidateScores_each hl).get hmem hm
  rw [List.getD_eq_getElem _ _ hm]
  simpa [candidates] using each

/-- Settles O37: the registers hold the list of scores, and the selection is `selectBest` of it. -/
theorem scoreallSelectsBest : Obligations.ScoreallSelectsBest := by
  intro s hs hw
  obtain ⟨l, hl⟩ := candidateScores_of_written hs hw (candidates (isMicro s))
  have candidate (m : BitVec 3) : m.toNat < l.length ↔ isCandidate s.cvClass m := by
    rw [candidateScores_length hl, lt_candidates_length_iff]
  have score {m : BitVec 3} (hm : isCandidate s.cvClass m) :
      (setScores s.scores l)[m.toNat]'m.isLt = l.getD m.toNat 0#32 := setScores_of_lt _ m.isLt ((candidate m).2 hm)
  obtain ⟨hcandidate, hindex⟩ := selectBest_candidate hl
  have hlt : selectBest (isMicro s) l < l.length := hindex ▸ (candidate _).2 hcandidate
  obtain ⟨best, first⟩ := selectBest_spec hlt
  refine ⟨setScores s.scores l, BitVec.ofNat 3 (selectBest (isMicro s) l), ?_, fun m hm => ?_, fun m hm => ?_, hcandidate,
    fun m hm => ?_, fun hnone => ?_⟩
  · have hresult : BitVec.ofNat 32 (selectBest (isMicro s) l)
        = (BitVec.ofNat 3 (selectBest (isMicro s) l)).setWidth 32 := by
      rw [← BitVec.toNat_inj, BitVec.toNat_setWidth, hindex, BitVec.toNat_ofNat]
    rw [exec_scoreall_of_scores hs hl, ← hresult]
    rfl
  · rw [score hm]
    exact exec_score_of_scores hs hm (candidateScores_get hl ((candidate m).2 hm))
  · exact setScores_of_le _ m.isLt (not_lt.1 (mt (candidate m).1 hm))
  · have hle := best m.toNat ((candidate m).2 hm)
    have hworse (h : m < BitVec.ofNat 3 (selectBest (isMicro s) l)) := first m.toNat (hindex ▸ BitVec.lt_def.1 h)
    rw [score hm, score hcandidate, hindex]
    cases hc : s.cvClass with
    | normal | micro => simpa [noWorse, isMicro, hc] using And.intro hle hworse
    | rmqr => exact absurd hc hs.1
  · obtain ⟨x, hx⟩ := candidateScores_noData hnone hl
    have same {m : BitVec 3} (hm : isCandidate s.cvClass m) : (setScores s.scores l)[m.toNat]'m.isLt = x := by
      have hlen := (candidate m).2 hm
      rw [score hm, List.getD_eq_getElem _ _ hlen]
      simp only [hx, List.getElem_replicate]
    have hzero : selectBest (isMicro s) l = 0 := by
      rw [hx]
      cases isMicro s
      · exact selectBest_replicate false 7 x
      · exact selectBest_replicate true 3 x
    exact ⟨by rw [hzero], fun m hm => (same hm).trans (same (m := 0#3) (fun _ => Nat.zero_le _)).symm⟩

/-! ### The path visits no cell twice -/

theorem pathColumns_nodup (w t : Nat) : (pathColumns w t).Nodup :=
  (List.nodup_reverse.2 List.nodup_range).filter _

/-- The columns of a list of strips, in order. -/
def stripColumns (l : List (Nat × Nat)) : List Nat := l.flatMap (fun p => [p.1, p.2])

theorem stripColumns_pairUp_sublist : ∀ l : List Nat, (stripColumns (pairUp l)).Sublist l
  | [] => .slnil
  | [_] => List.nil_sublist _
  | right :: left :: rest => ((stripColumns_pairUp_sublist rest).cons_cons left).cons_cons right

theorem stripRows_nodup (h i : Nat) : (stripRows h i).Nodup := by
  unfold stripRows
  split
  · exact List.nodup_reverse.2 List.nodup_range
  · exact List.nodup_range

theorem stripCells_nodup {rows : List Nat} {right left : Nat} (hrows : rows.Nodup) (hne : right ≠ left) :
    (stripCells rows right left).Nodup := by
  refine List.nodup_flatMap.2 ⟨fun r _ => by simp [hne], hrows.imp fun {r r'} hr x hx hx' => ?_⟩
  simp only [List.mem_cons, List.not_mem_nil, or_false] at hx hx'
  rcases hx with rfl | rfl <;> simp_all

/-- Strips of distinct columns share no cell (R242). -/
theorem strips_nodup (h : Nat) : ∀ (l : List (Nat × Nat)) (i : Nat), (stripColumns l).Nodup → (strips h i l).Nodup
  | [], _, _ => List.nodup_nil
  | (right, left) :: l, i, hl => by
    have hcols : stripColumns ((right, left) :: l) = right :: left :: stripColumns l := rfl
    rw [hcols, List.nodup_cons, List.nodup_cons, List.mem_cons, not_or] at hl
    obtain ⟨⟨hne, hright⟩, hleft, hrest⟩ := hl
    refine List.nodup_append'.2 ⟨stripCells_nodup (stripRows_nodup h i) hne, strips_nodup h l (i + 1) hrest,
      fun x hx hx' => ?_⟩
    have hx : x.2 = right ∨ x.2 = left := by
      simp only [stripCells, List.mem_flatMap, List.mem_cons, List.not_mem_nil, or_false] at hx
      obtain ⟨r, -, rfl | rfl⟩ := hx <;> simp
    have hmem : x.2 ∈ stripColumns l := by
      obtain ⟨-, p, hp, hcol⟩ := mem_strips l (i + 1) hx'
      exact List.mem_flatMap.2 ⟨p, hp, by simpa using hcol⟩
    rcases hx with hx | hx
    · exact hright (hx ▸ hmem)
    · exact hleft (hx ▸ hmem)

/-- The path visits no cell twice, whatever the width (R242). -/
theorem path_nodup (h w t : Nat) : (path h w t).Nodup :=
  strips_nodup h _ 0 ((pathColumns_nodup w t).sublist (stripColumns_pairUp_sublist _))

/-! ### Placing in cells -/

/-- The cells that hold data modules are those whose written module is one (R243). -/
theorem dataCells_eq_filter {s : State} {cells : List (Nat × Nat)} {vs : List Module}
    (h : readModules s.canvas cells = .ok vs) : dataCells cells vs = cells.filter (isDataModule s) := by
  have hall := readModules_ok h
  clear h
  induction hall with
  | nil => rfl
  | @cons x v cells vs hx _ ih =>
    have hv : isDataModule s x = !v.function := by
      simp only [moduleKey] at hx
      simp [isDataModule, hx]
    cases hf : v.function <;> simpa [dataCells, hv, hf] using ih

/-- A module written at distinct keys is read back. -/
theorem cellRead_writeModules_mem {ws : List ((Nat × Nat) × Module)} (m : List (Nat × Module))
    (hws : (ws.map (fun x => moduleKey x.1.1 x.1.2)).Nodup) {x : (Nat × Nat) × Module} (hx : x ∈ ws) :
    cellRead (writeModules m ws) (moduleKey x.1.1 x.1.2) = some x.2 := by
  induction ws generalizing m with
  | nil => cases hx
  | cons y ws ih =>
    obtain ⟨⟨r, c⟩, v⟩ := y
    obtain ⟨hhead, htail⟩ := List.nodup_cons.1 hws
    rw [show writeModules m (((r, c), v) :: ws) = writeModules (cellWrite m (moduleKey r c) v) ws from rfl]
    rcases List.mem_cons.1 hx with rfl | hx
    · rw [cellRead_writeModules_other _ _ _ fun y hy he => hhead (List.mem_map.2 ⟨y, hy, he.symm⟩)]
      exact cellRead_cellWrite_same _ _ _
    · exact ih _ htail hx

/-- The keys of distinct cells of the canvas are distinct (R85). -/
theorem keys_nodup {cells : List (Nat × Nat)} (hcells : cells.Nodup) (hcol : ∀ x ∈ cells, x.2 < 256) :
    (cells.map (fun x => moduleKey x.1 x.2)).Nodup := by
  refine hcells.map_on fun x hx y hy he => ?_
  obtain ⟨hr, hc⟩ := moduleKey_inj (hcol x hx) (hcol y hy) he
  exact Prod.ext hr hc

/-! ### The bit stream -/

theorem bitsOfBytes_cons (b : Byte) (bs : List Byte) : bitsOfBytes (b :: bs) = bitsOf b.toNat 8 ++ bitsOfBytes bs := rfl

/-- Bit `q` of a byte list: each byte most significant bit first (R83). -/
theorem bitsOfBytes_get {bs : List Byte} {q : Nat} (hq : q < 8 * bs.length) :
    (bitsOfBytes bs)[q]? = some ((bs.getD (q / 8) 0#8).getLsbD (7 - q % 8)) := by
  induction bs generalizing q with
  | nil => simp at hq
  | cons b bs ih =>
    rw [bitsOfBytes_cons]
    by_cases h8 : q < 8
    · rw [List.getElem?_append_left (by simpa using h8), bitsOf_get _ h8, Nat.div_eq_of_lt h8, Nat.mod_eq_of_lt h8]
      rfl
    · obtain ⟨p, rfl⟩ := Nat.exists_eq_add_of_le (not_lt.1 h8)
      have hp : p < 8 * bs.length := by simp at hq; omega
      rw [List.getElem?_append_right (by simp), bitsOf_length, Nat.add_sub_cancel_left, ih hp,
        Nat.add_div_left _ (by omega), Nat.add_mod_left]
      rfl

/-- Past the half codeword every codeword gives its 8 bits (R241). -/
theorem codewordBits_of_lt {h i : Nat} (hi : h < i) (bs : List Byte) : codewordBits h i bs = bitsOfBytes bs := by
  induction bs generalizing i with
  | nil => rfl
  | cons b bs ih =>
    rw [codewordBits, if_neg (by omega), ih (by omega), bitsOfBytes_cons, List.take_of_length_le (by simp)]

/-- The stream leaves out the four low bits of the half codeword (R241). -/
theorem codewordBits_eq {h i : Nat} (hi : i ≤ h) (bs : List Byte) : codewordBits h i bs
    = (bitsOfBytes bs).take (8 * (h - i) + 4) ++ (bitsOfBytes bs).drop (8 * (h - i) + 8) := by
  induction bs generalizing i with
  | nil => simp [codewordBits, bitsOfBytes]
  | cons b bs ih =>
    rw [codewordBits, bitsOfBytes_cons]
    obtain rfl | hlt := hi.eq_or_lt
    · rw [if_pos rfl, codewordBits_of_lt (Nat.lt_succ_self i)]
      simp [List.take_append]
    · have h4 : 8 * (h - i) + 4 = (bitsOf b.toNat 8).length + (8 * (h - (i + 1)) + 4) := by rw [bitsOf_length]; omega
      have h8 : 8 * (h - i) + 8 = (bitsOf b.toNat 8).length + (8 * (h - (i + 1)) + 8) := by rw [bitsOf_length]; omega
      rw [if_neg (by omega), ih hlt, List.take_of_length_le (by simp), h4, h8, List.take_length_add_append,
        List.drop_length_add_append, List.append_assoc]

/-- Where bit `j` of the codewords' part of the stream stands among the bits of the `n` codewords (R241). -/
def streamSource (h n j : Nat) : Nat := if h < n ∧ 8 * h + 4 ≤ j then j + 4 else j

theorem stream_length (h rem : Nat) (bytes : List Byte) :
    (stream h rem bytes).length = streamLength bytes.length h rem := by
  simp only [stream, codewordBits_eq (Nat.zero_le h), List.length_append, List.length_take, List.length_drop,
    bitsOfBytes_length, List.length_replicate, streamLength]
  split <;> omega

/-- Bit `j` of the stream: the bit where it comes from, or a remainder zero (R241). -/
theorem stream_get {h rem j : Nat} {bytes : List Byte} (hj : j < streamLength bytes.length h rem) :
    (stream h rem bytes)[j]? = some (if streamSource h bytes.length j < 8 * bytes.length then
      (bytes.getD (streamSource h bytes.length j / 8) 0#8).getLsbD (7 - streamSource h bytes.length j % 8)
      else false) := by
  rw [stream, codewordBits_eq (Nat.zero_le h), Nat.sub_zero, List.getElem?_append, List.getElem?_append,
    List.getElem?_take, List.getElem?_drop, List.getElem?_replicate]
  simp only [List.length_append, List.length_take, List.length_drop, bitsOfBytes_length]
  unfold streamLength at hj
  by_cases hfirst : j < 8 * h + 4 ∧ j < 8 * bytes.length
  · have hsource : streamSource h bytes.length j = j := if_neg (by omega)
    rw [hsource, if_pos (by omega), if_pos (by omega), if_pos hfirst.1, if_pos hfirst.2, bitsOfBytes_get hfirst.2]
  by_cases hsecond : 8 * h + 4 ≤ j ∧ j + 4 < 8 * bytes.length
  · have hsource : streamSource h bytes.length j = j + 4 := if_pos (by omega)
    have hindex : 8 * h + 8 + (j - min (8 * h + 4) (8 * bytes.length)) = j + 4 := by omega
    rw [hsource, if_pos (by omega), if_neg (by omega), if_pos hsecond.2, hindex, bitsOfBytes_get hsecond.2]
  · have hsource : ¬streamSource h bytes.length j < 8 * bytes.length := by
      unfold streamSource
      split <;> omega
    rw [if_neg hsource, if_neg (by omega), if_pos (by split at hj <;> omega)]

/-! ### PLACE -/

theorem timingColumn_of {s : State} {t : Nat} (ht : (s.cvClass = .normal ∧ t = 6) ∨ (s.cvClass = .micro ∧ t = 0)) :
    timingColumn s.cvClass = some t := by
  rcases ht with ⟨hc, rfl⟩ | ⟨hc, rfl⟩ <;> rw [hc] <;> rfl

/-- `PLACE` once its checks have passed and the path is read: the counts are compared, then the codewords are read
(R243). -/
theorem execPlace_of_path {rem : BitVec 8} {s : State} {t : Nat} {vs : List Module}
    (ht : timingColumn s.cvClass = some t) (hstate : s.cvstate = .empty)
    (hfits : regionFits s.src.toNat s.len.toNat)
    (hvs : readModules s.canvas (path s.cvH.toNat s.cvW.toNat t) = .ok vs) :
    execPlace rem s =
      if (dataCells (path s.cvH.toNat s.cvW.toNat t) vs).length ≠ streamLength s.len.toNat s.half.toNat rem.toNat then
        .next (raiseError .placeMismatch s)
      else orFault (readBytes s.cwram s.src.toNat s.len.toNat) fun bytes => .next (complete { s with
        canvas := writeModules s.canvas ((dataCells (path s.cvH.toNat s.cvW.toNat t) vs).zip
          ((stream s.half.toNat rem.toNat bytes).map dataModule))
        cvstate := .placed
        result := BitVec.ofNat 32 (stream s.half.toNat rem.toNat bytes).length }) := by
  simp [execPlace, ht, hstate, (inCwram_iff _ _).2 hfits, hvs]

/-- A bit of the stream read from CWRAM is the one R241 names. -/
theorem stream_get_specStreamBit {s : State} {rem j : Nat} {bytes : List Byte}
    (hread : readBytes s.cwram s.src.toNat s.len.toNat = .ok bytes)
    (hj : j < streamLength s.len.toNat s.half.toNat rem) :
    (stream s.half.toNat rem bytes)[j]? = some (specStreamBit s j) := by
  obtain ⟨hlen, hget⟩ := readBytes_ok hread
  have hspec : specStreamBit s j = if streamSource s.half.toNat s.len.toNat j < 8 * s.len.toNat then
      (byteAt s (s.src.toNat + streamSource s.half.toNat s.len.toNat j / 8)).getLsbD
        (7 - streamSource s.half.toNat s.len.toNat j % 8) else false := rfl
  rw [stream_get (hlen ▸ hj), hlen, hspec]
  split
  · rw [byteAt, hget _ (by omega), List.getD_eq_getElem?_getD]
  · rfl

/-- Writing modules in distinct cells of the canvas puts each in its cell (R243). -/
theorem cellRead_writeModules_zip {cells : List (Nat × Nat)} {vs : List Module} (m : List (Nat × Module))
    (hcells : cells.Nodup) (hcol : ∀ x ∈ cells, x.2 < 256) (hlen : vs.length = cells.length) {j : Nat} {x : Nat × Nat}
    {v : Module} (hx : cells[j]? = some x) (hv : vs[j]? = some v) :
    cellRead (writeModules m (cells.zip vs)) (moduleKey x.1 x.2) = some v := by
  have hkeys : ((cells.zip vs).map (fun x => moduleKey x.1.1 x.1.2)).Nodup := by
    have hmap : (cells.zip vs).map (fun x => moduleKey x.1.1 x.1.2) = cells.map (fun x => moduleKey x.1 x.2) := by
      conv_rhs => rw [← List.map_fst_zip hlen.ge, List.map_map]
      rfl
    rw [hmap]
    exact keys_nodup hcells hcol
  have hmem : (x, v) ∈ cells.zip vs := List.mem_of_getElem? (List.getElem?_zip_eq_some.2 ⟨hx, hv⟩)
  exact cellRead_writeModules_mem m hkeys hmem

/-- Settles O30: the free cells of the path are distinct, so each holds the bit placed in it. -/
theorem placePlacesStream : Obligations.PlacePlacesStream := by
  intro rem s t ht hstate hfits hpath free n
  obtain ⟨vs, hvs⟩ := readModules_of_written hpath
  have hfree : dataCells (path s.cvH.toNat s.cvW.toNat t) vs = free := dataCells_eq_filter hvs
  have hexec := execPlace_of_path (rem := rem) (timingColumn_of ht) hstate hfits hvs
  rw [hfree] at hexec
  refine ⟨fun hne => hexec.trans (if_pos hne), fun heq hbytes => ?_⟩
  have hcount : free.length = streamLength s.len.toNat s.half.toNat rem.toNat := heq
  obtain ⟨bytes, hread⟩ := readBytes_of_written hbytes
  have hlen : (stream s.half.toNat rem.toNat bytes).length = free.length := by
    rw [stream_length, (readBytes_ok hread).1, hcount]
  rw [if_neg (not_not.2 hcount), hread, orFault_ok, hlen] at hexec
  have hcells : free.Nodup := (path_nodup _ _ _).filter _
  have hcol : ∀ x ∈ free, x.2 < 256 := fun x hx =>
    (mem_path (List.mem_filter.1 hx).1).2.1.trans s.cvW.isLt
  refine ⟨_, hexec, fun j x hx => ?_, fun k hk => cellRead_writeModules_other _ _ _ fun y hy => ?_⟩
  · have hj : j < streamLength s.len.toNat s.half.toNat rem.toNat := by
      rw [← hcount]
      exact (List.getElem?_eq_some_iff.1 hx).1
    have hbit := stream_get_specStreamBit hread hj
    exact cellRead_writeModules_zip s.canvas hcells hcol (by simp [hlen]) hx (by rw [List.getElem?_map, hbit]; rfl)
  · exact hk y.1 (List.of_mem_zip hy).1

end Sys2Proof.Machine

namespace Sys2Proof.Machine

/-! ### Events and malformed accesses -/

/-- Settles O8: with events left, `runNext` is the next one's. -/
theorem stepTakesNextEvent : Obligations.StepTakesNextEvent :=
  fun _ _ => ⟨fun _ h => step_cons h, fun h => step_cons h⟩

/-- An access of which the window has no meaning is refused, a read and a write alike (R81, R327). -/
theorem hostAccess_refused {offset width : Nat} {r : Refusal} (h : accessRefusal offset width = some r) (w : Word)
    (s : State) : hostAccess (.read offset width) s = .refused r
      ∧ hostAccess (.write offset width w) s = .refused r := by
  simp only [hostAccess, h, and_self]

/-- Settles O51: each clause is a branch of `accessRefusal`. -/
theorem malformedAccessesRefused : Obligations.MalformedAccessesRefused := by
  refine fun offset width w s => ⟨fun hout => ?_, fun hin hbad => ?_⟩
  · exact hostAccess_refused (if_pos hout) w s
  · exact hostAccess_refused (by rw [accessRefusal, if_neg (by omega), if_pos hbad]) w s

/-! ### The memory port while idle -/

section IdlePort

variable {s : State}

/-- The valid addresses of CWRAM (R85). -/
theorem portValid_cwram (hspace : s.mspace = 0#2) : portValid s = true ↔ s.maddr.toNat < 8192 := by
  rw [portValid, if_pos hspace]
  exact decide_eq_true_iff

/-- The valid addresses of the canvas (R85). -/
theorem portValid_canvas (hspace : s.mspace = 1#2) : portValid s = true ↔
    s.maddr.toNat / 256 < s.cvH.toNat ∧ s.maddr.toNat % 256 < s.cvW.toNat := by
  rw [portValid, if_neg (by simp [hspace]), if_pos hspace, Bool.and_eq_true]
  exact and_congr decide_eq_true_iff decide_eq_true_iff

/-- The valid addresses of `GEN` (R85). -/
theorem portValid_gen (hspace : s.mspace = 2#2) : portValid s = true ↔ s.maddr.toNat ≤ 255 := by
  simp [portValid, hspace]

/-- The valid addresses of the bit buffer's byte view (R85). -/
theorem portValid_bb (hspace : s.mspace = 3#2) : portValid s = true ↔ s.maddr.toNat < 4096 := by
  rw [portValid, if_neg (by simp [hspace]), if_neg (by simp [hspace]), if_neg (by simp [hspace])]
  exact decide_eq_true_iff

theorem writePort_cwram (hb : s.busy = false) (hspace : s.mspace = 0#2) (ha : s.maddr.toNat < 8192) (w : Word) :
    writePort w s = advance { s with cwram := cellWrite s.cwram s.maddr.toNat (w.extractLsb' 0 8) } := by
  simp [writePort, hb, (portValid_cwram hspace).2 ha, hspace]

theorem writePort_canvas (hb : s.busy = false) (hspace : s.mspace = 1#2)
    (ha : s.maddr.toNat / 256 < s.cvH.toNat ∧ s.maddr.toNat % 256 < s.cvW.toNat) (w : Word) :
    writePort w s = advance { s with
      canvas := cellWrite s.canvas s.maddr.toNat { function := w.getLsbD 1, dark := w.getLsbD 0 } } := by
  have hkey : moduleKey (portRow s) (portCol s) = s.maddr.toNat := moduleKey_port _
  have hbits : moduleOfBits (w.extractLsb' 0 2) = { function := w.getLsbD 1, dark := w.getLsbD 0 } := by
    simp [moduleOfBits]
  simp [writePort, hb, (portValid_canvas hspace).2 ha, hspace, hkey, hbits]

/-- A write of an address that is not valid, or of a space that the port does not write, is an access error (R86). -/
theorem writePort_error (hb : s.busy = false) (h0 : ¬(s.mspace = 0#2 ∧ s.maddr.toNat < 8192))
    (h1 : ¬(s.mspace = 1#2 ∧ s.maddr.toNat / 256 < s.cvH.toNat ∧ s.maddr.toNat % 256 < s.cvW.toNat)) (w : Word) :
    writePort w s = advance (accessError s) := by
  have hcwram : ¬(portValid s = true ∧ s.mspace = 0#2) := fun ⟨hv, hs⟩ => h0 ⟨hs, (portValid_cwram hs).1 hv⟩
  have hcanvas : ¬(portValid s = true ∧ s.mspace = 1#2) := fun ⟨hv, hs⟩ => h1 ⟨hs, (portValid_canvas hs).1 hv⟩
  simp [writePort, hb, hcwram, hcanvas]

theorem readPort_valid {v : Word} (hb : s.busy = false) (hvalid : portValid s = true) (hv : portElement s = .ok v) :
    readPort s = .next { s with rdata := v, maddr := s.maddr + 1#16 } := by
  simp [readPort, hb, hvalid, hv, advance, deliver]

theorem readPort_unwritten {f : Fault} (hb : s.busy = false) (hvalid : portValid s = true)
    (hf : portElement s = .error f) : readPort s = .fault f := by
  simp [readPort, hb, hvalid, hf]

theorem readPort_error (hb : s.busy = false) (hvalid : ¬portValid s = true) :
    readPort s = .next { s with rdata := 0#32, aerr := true, maddr := s.maddr + 1#16 } := by
  simp [readPort, hb, hvalid, advance, accessError, deliver]

theorem portElement_cwram {b : Byte} (hspace : s.mspace = 0#2) (hread : cellRead s.cwram s.maddr.toNat = some b) :
    portElement s = .ok (b.setWidth 32) := by
  simp [portElement, hspace, hread]

theorem portElement_cwram_unwritten (hspace : s.mspace = 0#2) (hread : cellRead s.cwram s.maddr.toNat = none) :
    portElement s = .error (.unwrittenByte s.maddr.toNat) := by
  simp [portElement, hspace, hread]

/-- The two bits of a module as a number (R61). -/
theorem moduleBits_setWidth (v : Module) :
    (moduleBits v).setWidth 32 = BitVec.ofNat 32 (2 * v.function.toNat + v.dark.toNat) := by
  obtain ⟨f, d⟩ := v
  cases f <;> cases d <;> rfl

/-- A port read of the canvas looks where its address says (R85). -/
theorem cellRead_port {x : Option Module} (hread : cellRead s.canvas s.maddr.toNat = x) :
    cellRead s.canvas (moduleKey (portRow s) (portCol s)) = x := by
  rw [portRow, portCol, moduleKey_port, hread]

theorem portElement_canvas {v : Module} (hspace : s.mspace = 1#2) (hread : cellRead s.canvas s.maddr.toNat = some v) :
    portElement s = .ok (BitVec.ofNat 32 (2 * v.function.toNat + v.dark.toNat)) := by
  simp [portElement, readModule, hspace, cellRead_port hread, moduleBits_setWidth]

theorem portElement_canvas_unwritten (hspace : s.mspace = 1#2) (hread : cellRead s.canvas s.maddr.toNat = none) :
    portElement s = .error (.unwrittenModule (s.maddr.toNat / 256) (s.maddr.toNat % 256)) := by
  simp only [portElement, readModule, hspace, cellRead_port hread]
  rfl

theorem portElement_gen (hspace : s.mspace = 2#2) :
    portElement s = .ok ((s.gen.toList.getD s.maddr.toNat 0#8).setWidth 32) := by
  simp [portElement, hspace]

theorem portElement_bb (hspace : s.mspace = 3#2) : portElement s = .ok ((bbView s.bb s.maddr.toNat).setWidth 32) := by
  simp [portElement, hspace]

end IdlePort

/-- Settles O49: the port writes CWRAM or the canvas at a valid address, and has an access error elsewhere. -/
theorem portWrites : Obligations.PortWrites := by
  refine fun w s hb => ⟨_, write_port w s, ?_⟩
  by_cases h0 : s.mspace = 0#2 ∧ s.maddr.toNat < 8192
  · rw [if_pos h0, writePort_cwram hb h0.1 h0.2]
    exact ⟨rfl, BitVec.toNat_add _ _, rfl, rfl, fun x => cellRead_cellWrite _ _ _ _⟩
  rw [if_neg h0]
  by_cases h1 : s.mspace = 1#2 ∧ s.maddr.toNat / 256 < s.cvH.toNat ∧ s.maddr.toNat % 256 < s.cvW.toNat
  · rw [if_pos h1, writePort_canvas hb h1.1 h1.2]
    exact ⟨rfl, BitVec.toNat_add _ _, rfl, rfl, fun x => cellRead_cellWrite _ _ _ _⟩
  · rw [if_neg h1, writePort_error hb h0 h1]
    exact ⟨rfl, BitVec.toNat_add _ _, rfl, rfl, rfl⟩

/-! ### The byte view of the bit buffer -/

/-- Of bits added up, the first as the most significant of `n`, each stands at its place. -/
theorem sum_shiftLeft_testBit (f : Nat → Bool) {n j : Nat} (hj : j < n) :
    ((List.range n).map (fun k => (f k).toNat <<< (n - 1 - k))).sum.testBit (n - 1 - j) = f j := by
  induction n with
  | zero => omega
  | succ n ih =>
    have hdouble : ((List.range n).map (fun k => (f k).toNat <<< (n - k))).sum
        = 2 * ((List.range n).map (fun k => (f k).toNat <<< (n - 1 - k))).sum := by
      rw [← List.sum_map_mul_left]
      refine congrArg List.sum (List.map_congr_left fun k hk => ?_)
      have hk : k < n := List.mem_range.1 hk
      rw [show n - k = n - 1 - k + 1 by omega, Nat.shiftLeft_succ]
    rw [List.range_succ, List.map_append, List.sum_append, Nat.add_sub_cancel, hdouble]
    simp only [List.map_cons, List.map_nil, List.sum_singleton, Nat.sub_self, Nat.shiftLeft_zero]
    obtain rfl | hlt := (Nat.lt_succ_iff.1 hj).eq_or_lt
    · rw [Nat.sub_self]
      cases f j <;> simp
    · rw [show n - j = n - 1 - j + 1 by omega, Nat.testBit_succ, ← ih hlt]
      congr 1
      cases f n
      · simp
      · simp; omega

/-- Bit `j` of byte `i` of the view, counted from the most significant one (R140). -/
theorem bbView_getLsbD (bb : List Bool) (i : Nat) {j : Nat} (hj : j < 8) :
    (bbView bb i).getLsbD (7 - j) = bb.getD (8 * i + j) false := by
  have hbit := sum_shiftLeft_testBit (fun k => bbBit bb (8 * i + k)) hj
  rw [bbView, BitVec.getLsbD_ofNat, hbit, decide_eq_true (by omega), Bool.true_and, bbBit]

/-- Settles O50: each space's valid addresses, and its element there. -/
theorem portReads : Obligations.PortReads := by
  intro s hb returns refusedAddress
  have element {v : Word} (hvalid : portValid s = true) (hv : portElement s = .ok v) : returns v :=
    (read_port s).trans (readPort_valid hb hvalid hv)
  have unwritten {f : Fault} (hvalid : portValid s = true) (hf : portElement s = .error f) :
      hostAccess (.read 0x50 4) s = .fault f := (read_port s).trans (readPort_unwritten hb hvalid hf)
  have refused (hvalid : ¬portValid s = true) : refusedAddress := (read_port s).trans (readPort_error hb hvalid)
  refine ⟨fun hs ha => ?_, fun hs ha => ?_, fun hs hr hc => ?_, fun hs ha => ?_, fun hs ha => ?_, fun hs ha => ?_,
    fun hs ha => ?_, fun hs ha => ?_⟩
  · have hvalid := (portValid_cwram hs).2 ha
    split <;> rename_i hread
    · exact element hvalid (portElement_cwram hs hread)
    · exact unwritten hvalid (portElement_cwram_unwritten hs hread)
  · exact refused fun h => by have := (portValid_cwram hs).1 h; omega
  · have hvalid := (portValid_canvas hs).2 ⟨hr, hc⟩
    split <;> rename_i hread
    · exact element hvalid (portElement_canvas hs hread)
    · exact unwritten hvalid (portElement_canvas_unwritten hs hread)
  · exact refused fun h => ha ((portValid_canvas hs).1 h)
  · exact element ((portValid_gen hs).2 ha) (portElement_gen hs)
  · exact refused fun h => by have := (portValid_gen hs).1 h; omega
  · exact ⟨_, element ((portValid_bb hs).2 ha) (portElement_bb hs), fun j => bbView_getLsbD s.bb _⟩
  · exact refused fun h => by have := (portValid_bb hs).1 h; omega

/-! ### What a command leaves in CWRAM -/

/-- A byte written in a region stands at its place (R9). -/
theorem cellRead_writeBytes_at (m : List Host.Cell) (a : Nat) {bs : List Byte} {i : Nat} (hi : i < bs.length) :
    cellRead (writeBytes m a bs) (a + i) = bs[i]? := by
  rw [cellRead_writeBytes, if_pos (by omega), Nat.add_sub_cancel_left]

/-- Writing a region leaves the bytes outside it (R9). -/
theorem writeBytes_keptOutside (s : State) (a : Nat) {n : Nat} {bs : List Byte} (hlen : bs.length = n) :
    keptOutside s (writeBytes s.cwram a bs) a n := by
  intro x hx
  rw [cellRead_writeBytes, hlen, if_neg hx]

/-! ### BBST -/

/-- `BBST` in the terms of R90 and R150. -/
theorem exec_bbst (s : State) : exec .bbst s =
    if ¬regionFits s.dst.toNat (bbBytes s.bb) then .next (endsWith .range s)
    else .next { endsWith .none s with
      cwram := writeBytes s.cwram s.dst.toNat (intoBytes s.bb), result := BitVec.ofNat 32 (bbBytes s.bb) } := by
  simp only [exec, execBbst, Bool.not_eq_true', ← Bool.not_eq_true, inCwram_iff]
  rfl

/-- Settles O14: the bytes written are those of the byte view. -/
theorem bbstStoresBytes : Obligations.BbstStoresBytes := by
  refine ⟨by decide, fun s => ⟨fun hfits => (exec_bbst s).trans (if_pos hfits), fun hfits => ?_⟩⟩
  refine ⟨_, (exec_bbst s).trans (if_neg (not_not.2 hfits)), fun i hi => ?_,
    writeBytes_keptOutside s _ (intoBytes_length _)⟩
  have hi : i < (intoBytes s.bb).length := by rwa [intoBytes_length]
  refine ⟨bbView s.bb i, ?_, fun j => bbView_getLsbD s.bb i⟩
  rw [cellRead_writeBytes_at _ _ hi, List.getElem?_eq_getElem hi]
  simp [intoBytes]

end Sys2Proof.Machine

namespace Sys2Proof.Machine

/-! ### Regions read -/

@[simp] theorem bytesAt_length (s : State) (a n : Nat) : (bytesAt s a n).length = n := by
  simp [bytesAt]

theorem bytesAt_get (s : State) (a : Nat) {n i : Nat} (hi : i < n) :
    (bytesAt s a n)[i]? = some (byteAt s (a + i)) := by
  simp [bytesAt, hi]

/-- A part of a region is the region of that part. -/
theorem bytesAt_part (s : State) (a : Nat) {n d l : Nat} (h : d + l ≤ n) :
    ((bytesAt s a n).drop d).take l = bytesAt s (a + d) l := by
  refine List.ext_getElem? fun i => ?_
  by_cases hi : i < l
  · rw [List.getElem?_take_of_lt hi, List.getElem?_drop, bytesAt_get s _ (by omega), bytesAt_get s _ hi, Nat.add_assoc]
  · rw [List.getElem?_eq_none (by simp; omega), List.getElem?_eq_none (by simp; omega)]

theorem cellRead_of_written {s : State} {a : Nat} (h : (cellRead s.cwram a).isSome = true) :
    cellRead s.cwram a = some (byteAt s a) := by
  obtain ⟨b, hb⟩ := Option.isSome_iff_exists.1 h
  rw [byteAt, hb, Option.getD_some]

/-- Reading a written region answers its bytes (R9, R101). -/
theorem readBytes_eq_bytesAt {s : State} {a n : Nat} (h : bytesWritten s a n) :
    readBytes s.cwram a n = .ok (bytesAt s a n) := by
  obtain ⟨bs, hbs⟩ := readBytes_of_written h
  obtain ⟨hlen, hget⟩ := readBytes_ok hbs
  rw [hbs]
  refine congrArg _ (List.ext_getElem? fun i => ?_)
  by_cases hi : i < n
  · rw [← hget i hi, cellRead_of_written (h i hi), bytesAt_get s a hi]
  · rw [List.getElem?_eq_none (by omega), List.getElem?_eq_none (by simp; omega)]

/-- An encoding reads its written data region; with no codewords to compute it reads nothing (R198; log entry 5). -/
theorem readData_of_written {s : State} {a n : Nat} {k : Byte} (h : k ≠ 0#8 → bytesWritten s a n) :
    ∃ data, readData s.cwram a n k.toNat = .ok data ∧ (0 < k.toNat → data = bytesAt s a n) := by
  by_cases hk : k = 0#8
  · subst hk
    exact ⟨[], rfl, by simp⟩
  · have hpos : k.toNat ≠ 0 := fun h0 => hk (BitVec.eq_of_toNat_eq h0)
    exact ⟨_, by rw [readData, if_neg hpos, readBytes_eq_bytesAt (h hk)], fun _ => rfl⟩

/-! ### RSENC -/

/-- `RSENC` in the terms of R90, R91 and R198. -/
theorem exec_rsenc (s : State) : exec .rsenc s =
    if ¬(regionFits s.src.toNat s.len.toNat ∧ regionFits s.dst.toNat s.eck.toNat) then .next (endsWith .range s)
    else if regionsMeet s.src.toNat s.len.toNat s.dst.toNat s.eck.toNat then .next (endsWith .overlap s)
    else orFault (readData s.cwram s.src.toNat s.len.toNat s.eck.toNat) fun data =>
      .next { endsWith .none s with
        cwram := writeBytes s.cwram s.dst.toNat (rsEc data s.eck.toNat)
        gen := genFile (genPoly s.eck.toNat), gendeg := s.eck } := by
  simp only [exec, execRsenc, Bool.not_eq_true', ← Bool.not_eq_true, Bool.and_eq_true, inCwram_iff, overlap_iff]
  rfl

/-- Settles O23: the data bytes read are those of the region, and its codewords are written. -/
theorem rsencWritesEcCodewords : Obligations.RsencWritesEcCodewords := by
  refine fun s => ⟨fun hfits => ?_, fun hsrc hdst hmeet => ?_, fun hsrc hdst hmeet hwritten => ?_⟩
  · rw [exec_rsenc, if_pos hfits]
  · rw [exec_rsenc, if_neg (not_not.2 ⟨hsrc, hdst⟩), if_pos hmeet]
  · obtain ⟨data, hread, hdata⟩ := readData_of_written hwritten
    rw [exec_rsenc, if_neg (not_not.2 ⟨hsrc, hdst⟩), if_neg hmeet, hread]
    refine ⟨_, rfl, fun j hj => ?_, writeBytes_keptOutside s _ (rsEc_length _ _)⟩
    rw [cellRead_writeBytes_at _ _ (by rwa [rsEc_length]), hdata (by omega)]

/-! ### The blocks of a symbol -/

/-- The lengths of the blocks, block by block (R200). -/
theorem blockLens_eq_map (s : State) : blockLens s = (List.range (specBlocks s)).map (specLen s) := by
  refine List.ext_getElem? fun b => ?_
  by_cases hb : b < specBlocks s
  · rw [blockLens_get s hb]
    simp [hb]
  · rw [List.getElem?_eq_none (by simpa using hb), List.getElem?_eq_none (by simpa using hb)]

theorem blockLens_take (s : State) {b : Nat} (hb : b ≤ specBlocks s) :
    (blockLens s).take b = (List.range b).map (specLen s) := by
  rw [blockLens_eq_map, ← List.map_take, List.take_range, Nat.min_eq_left hb]

/-- Block `b` starts after the blocks before it (R200). -/
theorem blockLens_take_sum (s : State) {b : Nat} (hb : b ≤ specBlocks s) :
    ((blockLens s).take b).sum = specOff s b := by
  rw [blockLens_take s hb]
  rfl

/-- Every block lies in the data region (R200). -/
theorem specOff_add_specLen_le (s : State) {b : Nat} (hb : b < specBlocks s) :
    specOff s b + specLen s b ≤ specData s := by
  have hall : specOff s (specBlocks s) = specData s := by
    rw [← blockLens_take_sum s le_rfl, List.take_of_length_le (by simp), blockLens_sum]
  rw [← hall, show specOff s b + specLen s b = specOff s (b + 1) from (Finset.sum_range_succ _ _).symm]
  exact Finset.sum_le_sum_of_subset (Finset.range_mono hb)

/-- Block `b` of the data region (R200). -/
theorem cutBlocks_data_get (s : State) {b : Nat} (hb : b < specBlocks s) :
    (cutBlocks (blockLens s) (bytesAt s s.src.toNat (specData s)))[b]?
      = some (bytesAt s (s.src.toNat + specOff s b) (specLen s b)) := by
  rw [cutBlocks_get _ _ (blockLens_get s hb), blockLens_take_sum s hb.le,
    bytesAt_part s _ (specOff_add_specLen_le s hb)]

/-! ### RSBLK -/

/-- Codeword `j` of block `b` in the EC region (R200). -/
theorem ecOfBlocks_get {blocks : List (List Byte)} {k b j : Nat} {block : List Byte} (hb : blocks[b]? = some block)
    (hj : j < k) : (ecOfBlocks blocks k)[b * k + j]? = (rsEc block k)[j]? := by
  induction blocks generalizing b with
  | nil => simp at hb
  | cons first rest ih =>
    rw [show ecOfBlocks (first :: rest) k = rsEc first k ++ ecOfBlocks rest k from rfl]
    cases b with
    | zero =>
      obtain rfl : first = block := by simpa using hb
      rw [Nat.zero_mul, Nat.zero_add, List.getElem?_append_left (by simpa using hj)]
    | succ b =>
      have hindex : (b + 1) * k + j = (rsEc first k).length + (b * k + j) := by rw [rsEc_length]; ring
      rw [hindex, List.getElem?_append_right (Nat.le_add_right _ _), Nat.add_sub_cancel_left, ih (by simpa using hb)]

/-- Entry `j` of the `b`-th of `n` parts of `k` each lies within them. -/
theorem mul_add_lt_mul {n k b j : Nat} (hb : b < n) (hj : j < k) : b * k + j < n * k := by
  calc b * k + j < (b + 1) * k := by rw [Nat.succ_mul]; omega
    _ ≤ n * k := Nat.mul_le_mul_right k hb

/-- `RSBLK` in the terms of R90, R91 and R202. -/
theorem exec_rsblk (s : State) : exec .rsblk s =
    if ¬(regionFits s.src.toNat (specData s) ∧ regionFits s.aux.toNat (specEc s)) then .next (endsWith .range s)
    else if regionsMeet s.src.toNat (specData s) s.aux.toNat (specEc s) then .next (endsWith .overlap s)
    else orFault (readData s.cwram s.src.toNat (specData s) s.eck.toNat) fun data =>
      .next { endsWith .none s with
        cwram := writeBytes s.cwram s.aux.toNat (ecOfBlocks (cutBlocks (blockLens s) data) s.eck.toNat)
        gen := genFile (genPoly s.eck.toNat), gendeg := s.eck } := by
  simp only [exec, execRsblk, Bool.not_eq_true', ← Bool.not_eq_true, Bool.and_eq_true, inCwram_iff, overlap_iff]
  rfl

/-- Settles O24: the blocks cut from the data region are those of R200, and the codewords of each are written. -/
theorem rsblkEncodesEveryBlock : Obligations.RsblkEncodesEveryBlock := by
  refine fun s => ⟨fun hfits => ?_, fun hsrc haux hmeet => ?_, fun hsrc haux hmeet hwritten => ?_⟩
  · rw [exec_rsblk, if_pos hfits]
  · rw [exec_rsblk, if_neg (not_not.2 ⟨hsrc, haux⟩), if_pos hmeet]
  · obtain ⟨data, hread, hdata⟩ := readData_of_written hwritten
    rw [exec_rsblk, if_neg (not_not.2 ⟨hsrc, haux⟩), if_neg hmeet, hread]
    have hlen : (ecOfBlocks (cutBlocks (blockLens s) data) s.eck.toNat).length = specEc s := by
      simp [specEc, specBlocks]
    refine ⟨_, rfl, fun b hb j hj => ?_, writeBytes_keptOutside s _ hlen⟩
    have hin : b * s.eck.toNat + j < specEc s := mul_add_lt_mul hb hj
    rw [Nat.add_assoc, cellRead_writeBytes_at _ _ (hlen ▸ hin), hdata (by omega),
      ecOfBlocks_get (cutBlocks_data_get s hb) hj]

/-! ### Interleaving -/

/-- Where the columns of blocks of these lengths hold codeword `i` of block `b`: after the columns before `i`, and after
the blocks before `b` that reach column `i` (R205). -/
def columnPlace (lens : List Nat) (b i : Nat) : Nat :=
  (lens.map (fun n => min n i)).sum + (lens.take b).countP (fun n => i < n)

/-- In a column a codeword stands after those of the blocks before its own that reach the column (R205). -/
theorem column_get {blocks : List (List Byte)} {b i : Nat} {block : List Byte} {v : Byte}
    (hb : blocks[b]? = some block) (hi : block[i]? = some v) :
    (column blocks i)[(blocks.take b).countP (fun c => i < c.length)]? = some v := by
  induction blocks generalizing b with
  | nil => simp at hb
  | cons first rest ih =>
    cases b with
    | zero =>
      obtain rfl : first = block := by simpa using hb
      simp [column, hi]
    | succ b =>
      have hrest := ih (by simpa using hb)
      by_cases hfirst : i < first.length
      · rw [List.take_succ_cons, List.countP_cons_of_pos (by simpa using hfirst)]
        simpa [column, List.getElem?_eq_getElem hfirst] using hrest
      · rw [List.take_succ_cons, List.countP_cons_of_neg (by simpa using hfirst)]
        simpa [column, List.getElem?_eq_none (not_lt.1 hfirst)] using hrest

/-- The columns hold each codeword at its place (R205). -/
theorem columns_get {blocks : List (List Byte)} {b i n : Nat} {block : List Byte} {v : Byte}
    (hb : blocks[b]? = some block) (hi : block[i]? = some v) (hn : i < n) :
    (columns blocks n)[columnPlace (blocks.map List.length) b i]? = some v := by
  have hcolumn := column_get hb hi
  obtain ⟨m, rfl⟩ := Nat.exists_eq_add_of_lt hn
  have hsplit : columns blocks (i + m + 1)
      = columns blocks i ++ (column blocks i ++ (List.range m).flatMap (fun k => column blocks (i + 1 + k))) := by
    rw [columns, show i + m + 1 = i + 1 + m by omega, List.range_add, List.range_succ]
    simp [columns, List.flatMap_map]
  have hplace : columnPlace (blocks.map List.length) b i
      = (columns blocks i).length + (blocks.take b).countP (fun c => i < c.length) := by
    rw [columns_length, columnPlace, ← List.map_take, List.countP_map, List.map_map]
    rfl
  rw [hsplit, hplace, List.getElem?_append_right (Nat.le_add_right _ _), Nat.add_sub_cancel_left,
    List.getElem?_append_left (List.getElem?_eq_some_iff.1 hcolumn).1, hcolumn]

/-- Blocks cut from a region that holds them have the lengths asked for (R200). -/
theorem cutBlocks_map_length {α : Type} {lens : List Nat} {xs : List α} (h : lens.sum ≤ xs.length) :
    (cutBlocks lens xs).map List.length = lens := by
  induction lens generalizing xs with
  | nil => rfl
  | cons n ns ih =>
    rw [List.sum_cons] at h
    rw [cutBlocks, List.map_cons, List.length_take, Nat.min_eq_left (by omega), ih (by rw [List.length_drop]; omega)]

/-- All the columns of the blocks together hold the region (R205). -/
theorem columns_cutBlocks_length {lens : List Nat} {xs : List Byte} {n : Nat} (h : lens.sum = xs.length)
    (hn : ∀ l ∈ lens, l ≤ n) : (columns (cutBlocks lens xs) n).length = lens.sum := by
  have hmin : (cutBlocks lens xs).map (fun b => min b.length n) = lens.map (fun l => min l n) := by
    conv_rhs => rw [← cutBlocks_map_length h.le, List.map_map]
    rfl
  rw [columns_length, hmin, List.map_congr_left (fun l hl => Nat.min_eq_left (hn l hl)), List.map_id']

/-- The greatest length is that of no shorter block. -/
theorem le_foldl_max {lens : List Nat} {n : Nat} (h : n ∈ lens) : n ≤ lens.foldl max 0 := by
  rw [List.foldl_max]
  exact (List.le_max?_getD_of_mem h).trans (le_max_right _ _)

/-- The places of the data codewords are those of R205. -/
theorem columnPlace_blockLens (s : State) {b : Nat} (hb : b ≤ specBlocks s) (i : Nat) :
    columnPlace (blockLens s) b i = specDataPos s b i := by
  have hcount : ((List.range b).map (specLen s)).countP (fun n => i < n)
      = ((Finset.range b).filter (fun b' => i < specLen s b')).card := by
    rw [List.countP_map, List.countP_eq_length_filter]
    rfl
  rw [columnPlace, blockLens_take s hb, hcount, blockLens_eq_map, List.map_map]
  rfl

/-- The EC codewords stand column by column, one of each block (R205). -/
theorem columnPlace_replicate {n k b j : Nat} (hb : b ≤ n) (hj : j < k) :
    columnPlace (List.replicate n k) b j = j * n + b := by
  simp [columnPlace, List.take_replicate, List.countP_replicate, hj, hj.le, Nat.mul_comm, hb]

/-- Interleaving holds as many codewords as it is given (R205). -/
theorem interleave_length {lens : List Nat} {k : Nat} {data ec : List Byte} (hdata : lens.sum = data.length)
    (hec : lens.length * k = ec.length) : (interleave lens k data ec).length = data.length + ec.length := by
  have hsum : (List.replicate lens.length k).sum = ec.length := by simpa using hec
  rw [interleave, List.length_append, columns_cutBlocks_length hdata (fun l hl => le_foldl_max hl),
    columns_cutBlocks_length hsum (fun l hl => (List.eq_of_mem_replicate hl).le), hdata, hsum]

/-- The interleaved stream holds the data codewords at their places (R205). -/
theorem interleave_get_data (s : State) {b i : Nat} (hb : b < specBlocks s) (hi : i < specLen s b) (ec : List Byte) :
    (interleave (blockLens s) s.eck.toNat (bytesAt s s.src.toNat (specData s)) ec)[specDataPos s b i]?
      = some (byteAt s (s.src.toNat + specOff s b + i)) := by
  have hmax : i < (blockLens s).foldl max 0 :=
    hi.trans_le (le_foldl_max (List.mem_of_getElem? (blockLens_get s hb)))
  have hget := columns_get (cutBlocks_data_get s hb) (bytesAt_get s _ hi) hmax
  rw [cutBlocks_map_length (by simp [blockLens_sum]), columnPlace_blockLens s hb.le] at hget
  rw [interleave, List.getElem?_append_left (List.getElem?_eq_some_iff.1 hget).1, hget]

/-- After the data codewords it holds the EC codewords, column by column (R205). -/
theorem interleave_get_ec (s : State) {b j : Nat} (hb : b < specBlocks s) (hj : j < s.eck.toNat) {data : List Byte}
    (hdata : data.length = specData s) :
    (interleave (blockLens s) s.eck.toNat data (bytesAt s s.aux.toNat (specEc s)))[specData s + (j * specBlocks s + b)]?
      = some (byteAt s (s.aux.toNat + b * s.eck.toNat + j)) := by
  have hlens : (List.replicate (specBlocks s) s.eck.toNat)[b]? = some s.eck.toNat := by simp [hb]
  have hstart : ((List.replicate (specBlocks s) s.eck.toNat).take b).sum = b * s.eck.toNat := by
    simp [List.take_replicate, hb.le]
  have hblock := cutBlocks_get _ (bytesAt s s.aux.toNat (specEc s)) hlens
  rw [hstart, bytesAt_part s _ (by rw [← Nat.succ_mul]; exact Nat.mul_le_mul_right _ hb)] at hblock
  have hget := columns_get hblock (bytesAt_get s _ hj) hj
  rw [cutBlocks_map_length (by simp [specEc, specBlocks]), columnPlace_replicate hb.le hj] at hget
  have hlen : (columns (cutBlocks (blockLens s) data) ((blockLens s).foldl max 0)).length = specData s := by
    rw [columns_cutBlocks_length ((blockLens_sum s).trans hdata.symm) (fun l hl => le_foldl_max hl), blockLens_sum]
  rw [interleave, List.getElem?_append_right (by omega), hlen, Nat.add_sub_cancel_left, blockLens_length, hget]

/-- `ILV` in the terms of R90, R91 and R206. -/
theorem exec_ilv (s : State) : exec .ilv s =
    if ¬(regionFits s.src.toNat (specData s) ∧ regionFits s.aux.toNat (specEc s)
        ∧ regionFits s.dst.toNat (specData s + specEc s)) then .next (endsWith .range s)
    else if regionsMeet s.dst.toNat (specData s + specEc s) s.src.toNat (specData s)
        ∨ regionsMeet s.dst.toNat (specData s + specEc s) s.aux.toNat (specEc s) then .next (endsWith .overlap s)
    else orFault (readBytes s.cwram s.src.toNat (specData s)) fun data =>
      orFault (readBytes s.cwram s.aux.toNat (specEc s)) fun ec =>
        .next { endsWith .none s with
          cwram := writeBytes s.cwram s.dst.toNat (interleave (blockLens s) s.eck.toNat data ec)
          result := BitVec.ofNat 32 (specData s + specEc s) } := by
  simp only [exec, execIlv, Bool.not_eq_true', ← Bool.not_eq_true, Bool.and_eq_true, Bool.or_eq_true, inCwram_iff,
    overlap_iff, and_assoc]
  rfl

/-- Settles O25: the places of the columns are those of R205, and each codeword is the one its region holds. -/
theorem ilvInterleavesColumns : Obligations.IlvInterleavesColumns := by
  refine ⟨by decide, fun s => ⟨fun hfits => ?_, fun hsrc haux hdst hmeet => ?_,
    fun hsrc haux hdst hdata hec hwrittenData hwrittenEc => ?_⟩⟩
  · rw [exec_ilv, if_pos hfits]
  · rw [exec_ilv, if_neg (not_not.2 ⟨hsrc, haux, hdst⟩), if_pos hmeet]
  · rw [exec_ilv, if_neg (not_not.2 ⟨hsrc, haux, hdst⟩), if_neg (not_or.2 ⟨hdata, hec⟩),
      readBytes_eq_bytesAt hwrittenData, readBytes_eq_bytesAt hwrittenEc]
    have hlen : (interleave (blockLens s) s.eck.toNat (bytesAt s s.src.toNat (specData s))
        (bytesAt s s.aux.toNat (specEc s))).length = specData s + specEc s := by
      rw [interleave_length] <;> simp [blockLens_sum, specEc, specBlocks]
    refine ⟨_, rfl, fun b hb i hi => ?_, fun b hb j hj => ?_, writeBytes_keptOutside s _ hlen⟩
    · have hget := interleave_get_data s hb hi (bytesAt s s.aux.toNat (specEc s))
      have hread := hwrittenData (specOff s b + i) (by have := specOff_add_specLen_le s hb; omega)
      rw [cellRead_writeBytes_at _ _ (List.getElem?_eq_some_iff.1 hget).1, hget,
        cellRead_of_written (by rwa [Nat.add_assoc])]
    · have hget := interleave_get_ec s hb hj (bytesAt_length s s.src.toNat (specData s))
      have hread := hwrittenEc (b * s.eck.toNat + j) (mul_add_lt_mul hb hj)
      rw [show s.dst.toNat + specData s + j * specBlocks s + b
          = s.dst.toNat + (specData s + (j * specBlocks s + b)) by omega,
        cellRead_writeBytes_at _ _ (List.getElem?_eq_some_iff.1 hget).1, hget,
        cellRead_of_written (by rwa [Nat.add_assoc])]

end Sys2Proof.Machine

namespace Sys2Proof.Machine

section Completion

variable {i : Instr} {s : State} {f : Fault}

/-! ### Where a command can stop, said once -/

/-- `f` is the fault of an unwritten cell that the command consumes (R101, R327). -/
def consumedUnwritten (i : Instr) (s : State) (f : Fault) : Prop :=
  (∃ x, f = .unwrittenByte x ∧ consumesByte i s x ∧ x < 8192 ∧ cellRead s.cwram x = none)
    ∨ ∃ r c, f = .unwrittenModule r c ∧ consumesModule i s r c ∧ cellRead s.canvas (256 * r + c) = none

/-- The command has a next state, or stops at an unwritten cell that it consumes (R327). -/
def completesOrStops (i : Instr) (s : State) : Host.Outcome State Fault Refusal → Prop
  | .next _ => True
  | .fault f => consumedUnwritten i s f
  | .refused _ => False

/-- A check that ends the command with an error, or lets it go on. -/
theorem guard_completesOrStops {c : Prop} [Decidable c] {t : State} {k : Host.Outcome State Fault Refusal}
    (h : ¬c → completesOrStops i s k) : completesOrStops i s (if c then .next t else k) := by
  split
  · trivial
  · exact h ‹_›

/-- Going on with what was read. -/
theorem orFault_completesOrStops {α : Type} {x : Except Fault α} {k : α → Host.Outcome State Fault Refusal}
    (hstop : ∀ f, x = .error f → consumedUnwritten i s f) (hk : ∀ a, x = .ok a → completesOrStops i s (k a)) :
    completesOrStops i s (orFault x k) := by
  cases x with
  | ok a => exact hk a rfl
  | error f => exact hstop f rfl

/-- Reading a region of CWRAM that the command consumes stops only at one of its bytes (R9, R90). -/
theorem readBytes_stops {a n : Nat} (hfits : regionFits a n)
    (hconsumes : ∀ x, a ≤ x ∧ x < a + n → consumesByte i s x) (h : readBytes s.cwram a n = .error f) :
    consumedUnwritten i s f := by
  obtain ⟨k, hk, hf, hnone⟩ := readBytes_error h
  refine .inl ⟨a + k, hf, hconsumes _ (by omega), ?_, hnone⟩
  have hend : a + n ≤ 8192 := hfits.resolve_left (by omega)
  omega

/-- An encoding reads its data only where it has codewords to compute (R198; log entry 5). -/
theorem readData_stops {a n : Nat} {k : Byte} (hfits : regionFits a n)
    (hconsumes : ∀ x, k ≠ 0#8 ∧ a ≤ x ∧ x < a + n → consumesByte i s x)
    (h : readData s.cwram a n k.toNat = .error f) : consumedUnwritten i s f := by
  unfold readData at h
  split at h
  · cases h
  · rename_i hk
    have hne : k ≠ 0#8 := by rintro rfl; exact hk rfl
    exact readBytes_stops hfits (fun x hx => hconsumes x ⟨hne, hx⟩) h

theorem bbappb_completesOrStops (s : State) : completesOrStops .bbappb s (execBbappb s) := by
  refine guard_completesOrStops fun hfits => guard_completesOrStops fun _ =>
    orFault_completesOrStops ?_ fun _ _ => trivial
  rw [Bool.not_eq_true', Bool.not_eq_false, inCwram_iff] at hfits
  exact fun f => readBytes_stops hfits fun _ hx => hx

theorem rsenc_completesOrStops (s : State) : completesOrStops .rsenc s (exec .rsenc s) := by
  rw [exec_rsenc]
  refine guard_completesOrStops fun hfits => guard_completesOrStops fun _ =>
    orFault_completesOrStops ?_ fun _ _ => trivial
  exact fun f => readData_stops (not_not.1 hfits).1 fun _ hx => hx

theorem rsblk_completesOrStops (s : State) : completesOrStops .rsblk s (exec .rsblk s) := by
  rw [exec_rsblk]
  refine guard_completesOrStops fun hfits => guard_completesOrStops fun _ =>
    orFault_completesOrStops ?_ fun _ _ => trivial
  exact fun f => readData_stops (not_not.1 hfits).1 fun _ hx => hx

theorem ilv_completesOrStops (s : State) : completesOrStops .ilv s (exec .ilv s) := by
  rw [exec_ilv]
  refine guard_completesOrStops fun hfits => guard_completesOrStops fun _ => ?_
  obtain ⟨hsrc, haux, -⟩ := not_not.1 hfits
  refine orFault_completesOrStops (fun f => ?_) fun _ _ => orFault_completesOrStops (fun f => ?_) fun _ _ => trivial
  · exact readBytes_stops hsrc fun _ hx => .inl hx
  · exact readBytes_stops haux fun _ hx => .inr hx

/-- `PLACE` stops only at an unwritten module of its path, or at a codeword (R242, R243). -/
theorem place_completesOrStops (rem : BitVec 8) (s : State) :
    completesOrStops (.place rem) s (execPlace rem s) := by
  unfold execPlace
  split
  · trivial
  rename_i t ht
  refine guard_completesOrStops fun _ => guard_completesOrStops fun hfits => ?_
  rw [Bool.not_eq_true', Bool.not_eq_false, inCwram_iff] at hfits
  refine orFault_completesOrStops (fun f hf => ?_) fun vs _ => guard_completesOrStops fun _ =>
    orFault_completesOrStops (fun f => readBytes_stops hfits fun _ hx => hx) fun _ _ => trivial
  obtain ⟨r, c, hfault, hmem, hnone⟩ := readModules_error hf
  obtain ⟨hr, hc, hne⟩ := mem_path hmem
  refine .inr ⟨r, c, hfault, ⟨hr, hc, ?_⟩, hnone⟩
  cases hclass : s.cvClass <;> rw [hclass] at ht <;> cases ht
  · exact .inl ⟨rfl, hne⟩
  · exact .inr ⟨rfl, hne⟩

/-- Masking consumes the modules where the predicate holds (R251). -/
theorem maskedCanvas_stops {m : BitVec 3} (hm : isCandidate s.cvClass m)
    (hconsumes : ∀ r c, r < s.cvH.toNat → c < s.cvW.toNat → specPred (specIndex s.cvClass m.toNat) r c →
      consumesModule i s r c)
    (h : maskedCanvas m.toNat s = .error f) : consumedUnwritten i s f := by
  obtain ⟨r, c, hf, hr, hc, hpred, hnone⟩ := maskedCanvas_error hm h
  exact .inr ⟨r, c, hf, hconsumes r c hr hc hpred, hnone⟩

/-- Scoring consumes the modules that R255 and R261 look at. -/
theorem candidateScores_stops {ks : List Nat} (hs : maskAllowed s)
    (hconsumes : ∀ r c, r < s.cvH.toNat → c < s.cvW.toNat → scoringModule s r c → consumesModule i s r c)
    (h : candidateScores ks s = .error f) : consumedUnwritten i s f := by
  obtain ⟨r, c, hf, hr, hc, hscoring, hnone⟩ := candidateScores_error hs.1 h
  exact .inr ⟨r, c, hf, hconsumes r c hr hc hscoring, hnone⟩

theorem mask_completesOrStops (m : BitVec 3) (s : State) : completesOrStops (.mask m) s (execMask m s) := by
  unfold execMask
  split
  · trivial
  rename_i hok
  obtain ⟨-, hm⟩ := (maskIndexError_eq_none_iff m s).1 hok
  exact orFault_completesOrStops (fun f => maskedCanvas_stops hm fun r c hr hc hpred => ⟨hr, hc, hpred⟩)
    fun _ _ => trivial

theorem score_completesOrStops (m : BitVec 3) (s : State) : completesOrStops (.score m) s (execScore m s) := by
  unfold execScore
  split
  · trivial
  rename_i hok
  obtain ⟨hs, -⟩ := (maskIndexError_eq_none_iff m s).1 hok
  exact orFault_completesOrStops (fun f => candidateScores_stops hs fun r c hr hc h => ⟨hr, hc, h⟩) fun _ _ => trivial

theorem scoreall_completesOrStops (s : State) : completesOrStops .scoreall s (execScoreall s) := by
  unfold execScoreall
  split
  · trivial
  rename_i hok
  have hs := (maskStateError_eq_none_iff s).1 hok
  exact orFault_completesOrStops (fun f => candidateScores_stops hs fun r c hr hc h => ⟨hr, hc, h⟩) fun _ _ => trivial

theorem maskbest_completesOrStops (s : State) : completesOrStops .maskbest s (execMaskbest s) := by
  unfold execMaskbest
  split
  · trivial
  rename_i hok
  have hs := (maskStateError_eq_none_iff s).1 hok
  refine orFault_completesOrStops (fun f => candidateScores_stops hs fun r c hr hc h => ⟨hr, hc, .inl h⟩) fun l hl =>
    orFault_completesOrStops (fun f hf => ?_) fun _ _ => trivial
  obtain ⟨hm, hbest⟩ := selectBest_candidate hl
  rw [← hbest] at hf
  exact maskedCanvas_stops hm (fun r c hr hc hpred => ⟨hr, hc, .inr ⟨_, hm, hpred⟩⟩) hf

/-- Every command has a next state, or stops at an unwritten cell that it consumes (R327). -/
theorem exec_completesOrStops (i : Instr) (s : State) : completesOrStops i s (exec i s) := by
  cases i with
  | nop | bbclr | gfmul | gfexp | rsgen | verenc => trivial
  | bbapp => exact guard_completesOrStops fun _ => guard_completesOrStops fun _ => trivial
  | bbappb => exact bbappb_completesOrStops s
  | bbpad =>
    refine guard_completesOrStops fun _ => ?_
    split
    · trivial
    · exact guard_completesOrStops fun _ => trivial
  | bbst => exact guard_completesOrStops fun _ => trivial
  | gflog =>
    simp only [exec, execGflog]
    split <;> trivial
  | rsenc => exact rsenc_completesOrStops s
  | rsblk => exact rsblk_completesOrStops s
  | ilv => exact ilv_completesOrStops s
  | cvinit =>
    simp only [exec, execCvinit]
    split <;> trivial
  | place rem => exact place_completesOrStops rem s
  | mask m => exact mask_completesOrStops m s
  | score m => exact score_completesOrStops m s
  | scoreall => exact scoreall_completesOrStops s
  | maskbest => exact maskbest_completesOrStops s
  | fmtenc =>
    refine guard_completesOrStops fun _ => ?_
    split <;> trivial

theorem exec_ne_refused (i : Instr) (s : State) (r : Refusal) : exec i s ≠ .refused r := by
  intro h
  have hi := exec_completesOrStops i s
  rw [h] at hi
  exact hi

theorem exec_fault (h : exec i s = .fault f) : consumedUnwritten i s f := by
  have hi := exec_completesOrStops i s
  rwa [h] at hi

/-- A command that stops at none of the cells it consumes has a next state. -/
theorem exec_next_of_no_stop (h : ∀ f, ¬consumedUnwritten i s f) : ∃ t, exec i s = .next t := by
  cases he : exec i s with
  | next t => exact ⟨t, rfl⟩
  | fault f => exact absurd (exec_fault he) (h f)
  | refused r => exact absurd he (exec_ne_refused i s r)

/-- The commands that read neither CWRAM nor the canvas consume no cell (R327). -/
theorem consumes_nothing
    (h : mnemonicOfInstr i ∉ [Mnemonic.bbappb, .rsenc, .rsblk, .ilv, .place, .mask, .score, .scoreall, .maskbest]) :
    (∀ x, ¬consumesByte i s x) ∧ ∀ r c, ¬consumesModule i s r c := by
  cases i
  case nop | bbclr | bbapp | bbpad | bbst | gfmul | gfexp | gflog | rsgen | cvinit | fmtenc | verenc =>
    exact ⟨fun _ hx => hx, fun _ _ hx => hx.2.2⟩
  all_goals simp [mnemonicOfInstr] at h

end Completion

/-- Settles O58: a command that does not complete stops at a cell it consumes. -/
theorem commandsComplete : Obligations.CommandsComplete := by
  refine fun i s => ⟨fun t h => (exec_frame h).completed, exec_ne_refused i s, fun hbytes hmodules => ?_,
    fun f => exec_fault, fun hi => ?_⟩
  · refine exec_next_of_no_stop fun f => ?_
    rintro (⟨x, -, hx, -, hnone⟩ | ⟨r, c, -, hrc, hnone⟩)
    · exact absurd (hbytes x hx) (by simp [hnone])
    · exact absurd (hmodules r c hrc) (by simp [hnone])
  · obtain ⟨hbyte, hmodule⟩ := consumes_nothing (s := s) hi
    refine exec_next_of_no_stop fun f => ?_
    rintro (⟨x, -, hx, -⟩ | ⟨r, c, -, hrc, -⟩)
    · exact hbyte x hx
    · exact hmodule r c hrc

end Sys2Proof.Machine

namespace Sys2Proof.Machine

/-! ### The opcode map, read backwards (R118) -/

theorem mnemonicOf_opcodeOf (m : Mnemonic) : mnemonicOf (opcodeOf m) = some m := by
  cases m <;> rfl

theorem mnemonicOf_eq_some_iff {opc : BitVec 8} {m : Mnemonic} : mnemonicOf opc = some m ↔ opc = opcodeOf m := by
  refine ⟨fun h => ?_, fun h => h ▸ mnemonicOf_opcodeOf m⟩
  have hfound := List.find?_some h
  exact (eq_of_beq hfound).symm

@[simp] theorem mnemonicOfInstr_fieldsOf (m : Mnemonic) (w : Word) : mnemonicOfInstr (fieldsOf m w) = m := by
  cases m <;> rfl

/-! ### A word is its opcode and its operand bits (R111) -/

theorem word_ext_iff {w v : Word} :
    w = v ↔ w.extractLsb' 24 8 = v.extractLsb' 24 8 ∧ w.extractLsb' 0 24 = v.extractLsb' 0 24 := by
  have hjoin (u : Word) : u.extractLsb' 24 8 ++ u.extractLsb' 0 24 = u :=
    (BitVec.extractLsb'_append_extractLsb'_eq_extractLsb' rfl).trans BitVec.extractLsb'_eq_self
  refine ⟨fun h => by simp [h], fun ⟨hopc, hlow⟩ => ?_⟩
  rw [← hjoin w, ← hjoin v, hopc, hlow]

theorem encode_opcode (i : Instr) : (encode i).extractLsb' 24 8 = opcodeOf (mnemonicOfInstr i) :=
  BitVec.extractLsb'_append_eq_left

theorem encode_operandBits (i : Instr) : (encode i).extractLsb' 0 24 = operandBits i :=
  BitVec.extractLsb'_append_eq_right

/-- A row's `match` and `mask` say that the opcode is the row's and that no reserved bit is set (R111, R118). -/
theorem and_specRow_iff {w : Word} {m : Mnemonic} : w &&& (specRow m).2 = (specRow m).1
    ↔ w.extractLsb' 24 8 = opcodeOf m ∧ w &&& reservedBits (formatOf m) = 0#32 := by
  have hmask : (specRow m).2.extractLsb' 24 8 = BitVec.allOnes 8 := by cases m <;> rfl
  have hmatch : (specRow m).1.extractLsb' 24 8 = opcodeOf m := by cases m <;> rfl
  have hreserved : (specRow m).2.extractLsb' 0 24 = (reservedBits (formatOf m)).extractLsb' 0 24 := by cases m <;> rfl
  have hzero : (specRow m).1.extractLsb' 0 24 = 0#24 := by cases m <;> rfl
  have habove : (reservedBits (formatOf m)).extractLsb' 24 8 = 0#8 := by cases m <;> rfl
  rw [word_ext_iff, word_ext_iff (v := 0#32)]
  simp only [BitVec.extractLsb'_and, hmask, hmatch, hreserved, hzero, habove, BitVec.and_allOnes, BitVec.and_zero,
    BitVec.extractLsb'_zero, true_and]

/-! ### The decoder, said once -/

/-- A word decodes exactly when it matches a row and, for `BBAPP`, counts at most 16 bits; its fields are then the row's
(R118, R119). -/
theorem decode_ok_iff {w : Word} {i : Instr} : decode w = .ok i ↔ ∃ m, w &&& (specRow m).2 = (specRow m).1
    ∧ (m = .bbapp → (w.extractLsb' 16 5).toNat ≤ 16) ∧ fieldsOf m w = i := by
  simp only [and_specRow_iff, ← mnemonicOf_eq_some_iff]
  unfold decode
  cases mnemonicOf (w.extractLsb' 24 8) with
  | none => simp
  | some m =>
    simp only [Option.some.injEq, and_assoc, exists_eq_left']
    split_ifs with hres hcount
    · exact iff_of_false nofun fun h => hres h.1
    · exact iff_of_false nofun fun h => absurd (h.2.1 hcount.1) (by omega)
    · rw [Except.ok.injEq]
      exact ⟨fun h => ⟨not_not.1 hres, fun hm => Nat.not_lt.1 fun hn => hcount ⟨hm, hn⟩, h⟩, fun h => h.2.2⟩

/-- Settles O4: `decode_ok_iff`, as the fields of a row are operands of its mnemonic. -/
theorem wordSelectsRow : Obligations.WordSelectsRow := by
  intro w m
  simp only [decode_ok_iff]
  constructor
  · rintro ⟨i, ⟨m', hrow, hcount, rfl⟩, hm⟩
    rw [mnemonicOfInstr_fieldsOf] at hm
    subst hm
    exact ⟨hrow, hcount⟩
  · rintro ⟨hrow, hcount⟩
    exact ⟨fieldsOf m w, ⟨m, hrow, hcount, rfl⟩, mnemonicOfInstr_fieldsOf m w⟩

/-! ### The fields of an encoded command -/

/-- The lowest field of a word (R113 to R116). -/
theorem extractLsb'_lowest {a k n : Nat} (opc : BitVec a) (hi : BitVec k) (x : BitVec n) :
    (opc ++ (hi ++ x)).extractLsb' 0 n = x := by
  rw [BitVec.extractLsb'_append_eq_of_add_le (by omega), BitVec.extractLsb'_append_eq_right]

/-- The field above the lowest one, `N` of `BBAPP` and `B` of `GFMUL` (R113, R114). -/
theorem extractLsb'_second {a k n l : Nat} (opc : BitVec a) (hi : BitVec k) (x : BitVec n) (y : BitVec l) :
    (opc ++ ((hi ++ x) ++ y)).extractLsb' l n = x := by
  rw [BitVec.extractLsb'_append_eq_of_add_le (by omega), BitVec.extractLsb'_append_eq_of_le le_rfl, Nat.sub_self,
    BitVec.extractLsb'_append_eq_right]

theorem fieldsOf_encode (i : Instr) : fieldsOf (mnemonicOfInstr i) (encode i) = i := by
  cases i with
  | bbapp n value =>
    exact congrArg₂ Instr.bbapp (extractLsb'_second 0x02#8 0#3 n value) (extractLsb'_lowest 0x02#8 (0#3 ++ n) value)
  | gfmul a b =>
    exact congrArg₂ Instr.gfmul (extractLsb'_lowest 0x10#8 (0#8 ++ b) a) (extractLsb'_second 0x10#8 0#8 b a)
  | gfexp e => exact congrArg Instr.gfexp (extractLsb'_lowest 0x11#8 0#15 e)
  | gflog a => exact congrArg Instr.gflog (extractLsb'_lowest 0x12#8 0#16 a)
  | rsgen k => exact congrArg Instr.rsgen (extractLsb'_lowest 0x20#8 0#16 k)
  | place rem => exact congrArg Instr.place (extractLsb'_lowest 0x31#8 0#16 rem)
  | mask m => exact congrArg Instr.mask (extractLsb'_lowest 0x32#8 0#21 m)
  | score m => exact congrArg Instr.score (extractLsb'_lowest 0x33#8 0#21 m)
  | fmtenc seed => exact congrArg Instr.fmtenc (extractLsb'_lowest 0x40#8 0#19 seed)
  | verenc v => exact congrArg Instr.verenc (extractLsb'_lowest 0x41#8 0#18 v)
  | _ => rfl

open Laws in
/-- The laws of the single rows, said of every command. -/
theorem rowMatch_statement (i : Instr) : RowMatch.Statement i := by
  cases i
  exacts [RowMatch.nop, RowMatch.bbclr, RowMatch.bbapp _ _, RowMatch.bbappb, RowMatch.bbpad, RowMatch.bbst,
    RowMatch.gfmul _ _, RowMatch.gfexp _, RowMatch.gflog _, RowMatch.rsgen _, RowMatch.rsenc, RowMatch.rsblk,
    RowMatch.ilv, RowMatch.cvinit, RowMatch.place _, RowMatch.mask _, RowMatch.score _, RowMatch.scoreall,
    RowMatch.maskbest, RowMatch.fmtenc _, RowMatch.verenc _]

/-- The one operand range that the field widths do not impose, read off the word of the row (R113). -/
theorem wf_fieldsOf_iff (m : Mnemonic) (w : Word) :
    (fieldsOf m w).wf = true ↔ (m = .bbapp → (w.extractLsb' 16 5).toNat ≤ 16) := by
  cases m <;> simp [fieldsOf, Instr.wf]

/-- Settles O2: the word matches its row, and its fields are the operands. -/
theorem decodeOfEncode : Obligations.DecodeOfEncode := by
  intro i hi
  refine decode_ok_iff.2 ⟨mnemonicOfInstr i, rowMatch_statement i hi, ?_, fieldsOf_encode i⟩
  rwa [← wf_fieldsOf_iff, fieldsOf_encode]

/-! ### The word of the decoded fields -/

/-- How many bits of a format are marked 0: the highest ones of bits [23:0] (R111). -/
def reservedWidth : Format → Nat
  | .f0 => 24
  | .fa => 3
  | .fb => 8
  | .fe => 15
  | .f8 => 16
  | .f6 => 18
  | .f5 => 19
  | .f3 => 21

/-- Above its fields a word without a reserved bit is zero (R111, R119). -/
theorem extractLsb'_reserved {w : Word} {f : Format} (h : w &&& reservedBits f = 0#32) :
    w.extractLsb' (24 - reservedWidth f) (reservedWidth f) = 0#(reservedWidth f) := by
  have hones : (reservedBits f).extractLsb' (24 - reservedWidth f) (reservedWidth f)
      = BitVec.allOnes (reservedWidth f) := by cases f <;> rfl
  have hw := congrArg (BitVec.extractLsb' (24 - reservedWidth f) (reservedWidth f)) h
  rwa [BitVec.extractLsb'_and, hones, BitVec.and_allOnes, BitVec.extractLsb'_zero] at hw

/-- A field under `k` zero bits is the wider field. -/
theorem zero_append_extractLsb' {w : Word} {l n k : Nat} (h : w.extractLsb' (l + n) k = 0#k) :
    0#k ++ w.extractLsb' l n = w.extractLsb' l (k + n) := by
  rw [← h, BitVec.extractLsb'_append_extractLsb'_eq_extractLsb' rfl]

theorem operandBits_fieldsOf {m : Mnemonic} {w : Word} (h : w &&& reservedBits (formatOf m) = 0#32) :
    operandBits (fieldsOf m w) = w.extractLsb' 0 24 := by
  have hzero := extractLsb'_reserved h
  cases m with
  | nop | bbclr | bbappb | bbpad | bbst | rsenc | rsblk | ilv | cvinit | scoreall | maskbest => exact hzero.symm
  | gfexp | gflog | rsgen | place | mask | score | fmtenc | verenc =>
    exact zero_append_extractLsb' (by simpa [formatOf, reservedWidth] using hzero)
  | bbapp =>
    have hcount : 0#3 ++ w.extractLsb' 16 5 = w.extractLsb' 16 8 := zero_append_extractLsb' hzero
    rw [fieldsOf, operandBits, hcount]
    exact BitVec.extractLsb'_append_extractLsb'_eq_extractLsb' rfl
  | gfmul =>
    have hb : 0#8 ++ w.extractLsb' 8 8 = w.extractLsb' 8 16 := zero_append_extractLsb' hzero
    rw [fieldsOf, operandBits, hb]
    exact BitVec.extractLsb'_append_extractLsb'_eq_extractLsb' rfl

/-- Settles O3: opcode and operand bits of the two words agree. -/
theorem encodeOfDecode : Obligations.EncodeOfDecode := by
  intro w i h
  obtain ⟨m, hrow, hcount, rfl⟩ := decode_ok_iff.1 h
  obtain ⟨hopc, hreserved⟩ := and_specRow_iff.1 hrow
  refine ⟨(wf_fieldsOf_iff m w).2 hcount, word_ext_iff.2 ⟨?_, ?_⟩⟩
  · rw [encode_opcode, mnemonicOfInstr_fieldsOf, hopc]
  · rw [encode_operandBits, operandBits_fieldsOf hreserved]

/-- Settles O1: each word is decoded. -/
theorem sampleWordsDecode : Obligations.SampleWordsDecode := by
  unfold Obligations.SampleWordsDecode
  decide

/-! ### Words that do not decode -/

theorem engineStep_illegal {s : State} {e : DecodeError} (hb : s.busy = true) (hd : decode s.cmd = .error e) :
    engineStep s = .next (raiseError .illegal s) := by
  rw [engineStep, if_pos hb, runCommand, hd]

/-- Settles O6: with the engine to step, `runNext` is `engineStep`, which ends with `ILLEGAL`. -/
theorem illegalWordCompletes : Obligations.IllegalWordCompletes := by
  refine fun s e hb hd => ⟨fun h => ?_, fun rest h => ?_⟩
  · rw [step_nil h, engineStep_illegal hb hd]
    rfl
  · rw [step_cons h]
    exact engineStep_illegal hb hd

/-! ### BBAPP -/

/-- Settles O11: the bits appended are `bitsOf` of the value, of which `bitsOf_get` gives each. -/
theorem bbappAppendsBits : Obligations.BbappAppendsBits := by
  intro n value s
  refine ⟨fun hn => ?_, fun hn hcap => ?_, fun hn hcap =>
    ⟨bitsOf value.toNat n.toNat, ?_, bitsOf_length _ _, fun j hj => bitsOf_get _ hj⟩⟩
  · rw [exec, execBbapp, if_pos hn]
    rfl
  · rw [exec, execBbapp, if_neg (by omega), if_pos hcap]
    rfl
  · rw [exec, execBbapp, if_neg (by omega), if_neg (by omega)]
    rfl

end Sys2Proof.Machine

namespace Sys2Proof.Machine

/-! ### BBCLR -/

/-- Settles O10: `BBCLR` has one outcome, and the empty buffer has length 0. -/
theorem bbclrEmptiesBuffer : Obligations.BbclrEmptiesBuffer :=
  ⟨by decide, fun _ => ⟨rfl, by simp [regValue]⟩⟩

/-! ### BBAPPB -/

/-- `BBAPPB` in the terms of R90 and R145. -/
theorem exec_bbappb (s : State) : exec .bbappb s =
    if ¬regionFits s.src.toNat s.len.toNat then .next (endsWith .range s)
    else if s.cap.toNat < s.bb.length + 8 * s.len.toNat then .next (endsWith .dataTooLong s)
    else orFault (readBytes s.cwram s.src.toNat s.len.toNat) fun bytes =>
      .next { endsWith .none s with bb := s.bb ++ bitsOfBytes bytes } := by
  simp only [exec, execBbappb, Bool.not_eq_true', ← Bool.not_eq_true, inCwram_iff]
  rfl

/-- Bit `j` of byte `i` of a byte list (R83). -/
theorem bitsOfBytes_get_byte {bs : List Byte} {i j : Nat} {b : Byte} (hb : bs[i]? = some b) (hj : j < 8) :
    (bitsOfBytes bs)[8 * i + j]? = some (b.getLsbD (7 - j)) := by
  have hi : i < bs.length := (List.getElem?_eq_some_iff.1 hb).1
  have hdiv : (8 * i + j) / 8 = i := by omega
  have hmod : (8 * i + j) % 8 = j := by omega
  rw [bitsOfBytes_get (by omega), hdiv, hmod, List.getD_eq_getElem?_getD, hb, Option.getD_some]

/-- Settles O12: the bits appended are those of the bytes read, which are the bytes of the region. -/
theorem bbappbAppendsBytes : Obligations.BbappbAppendsBytes := by
  refine ⟨by decide, fun s => ⟨fun hfits => ?_, fun hfits hcap => ?_, fun hfits hcap hwritten =>
    ⟨bitsOfBytes (bytesAt s s.src.toNat s.len.toNat), ?_, by simp, fun i hi j hj =>
      bitsOfBytes_get_byte (bytesAt_get s _ hi) hj⟩⟩⟩
  · rw [exec_bbappb, if_pos hfits]
  · rw [exec_bbappb, if_neg (not_not.2 hfits), if_pos hcap]
  · rw [exec_bbappb, if_neg (not_not.2 hfits), if_neg (not_lt.2 hcap), readBytes_eq_bytesAt hwritten, orFault_ok]

/-! ### BBPAD -/

/-- A valid symbol that is not rMQR has the terminator of R146. -/
theorem termBits_of_ne_rmqr {s : State} (hsym : symOk s) (hclass : s.symClass ≠ 2#2) :
    termBits s = some (specTerm s) := by
  obtain ⟨h, -, -⟩ | ⟨h, -, -⟩ | h := hsym
  · simp [termBits, specTerm, h]
  · simp [termBits, specTerm, h]
  · exact absurd h hclass

/-- `BBPAD` in the terms of R44, R146 and R147. -/
theorem exec_bbpad (s : State) : exec .bbpad s =
    if ¬symOk s then .next (endsWith .invalidVersion s)
    else if s.symClass = 2#2 then .next (endsWith .unsupported s)
    else if s.cap.toNat < s.bb.length then .next (endsWith .dataTooLong s)
    else .next { endsWith .none s with bb := padTo s.bb s.cap.toNat (specTerm s) } := by
  simp only [exec, execBbpad, Bool.not_eq_true', ← Bool.not_eq_true, symValid_iff]
  by_cases hsym : symOk s
  · rw [if_neg (not_not.2 hsym), if_neg (not_not.2 hsym)]
    by_cases hclass : s.symClass = 2#2
    · rw [if_pos hclass, termBits, hclass]
      rfl
    · rw [if_neg hclass, termBits_of_ne_rmqr hsym hclass]
      rfl
  · rw [if_pos hsym, if_pos hsym]
    rfl

theorem bitsOf_zero_left (n : Nat) : bitsOf 0 n = List.replicate n false := by
  induction n with
  | zero => rfl
  | succ n ih => rw [bitsOf, ih, Nat.zero_testBit, List.replicate_succ]

@[simp] theorem padBytes_length (i n : Nat) : (padBytes i n).length = n := by
  induction n generalizing i with
  | zero => rfl
  | succ n ih => rw [padBytes, List.length_cons, ih]

/-- The pad bytes alternate by the parity of their index (R149). -/
theorem padBytes_get (i : Nat) {n k : Nat} (hk : k < n) :
    (padBytes i n)[k]? = some (if (i + k) % 2 = 0 then 0xEC#8 else 0x11#8) := by
  induction n generalizing i k with
  | zero => omega
  | succ n ih =>
    cases k with
    | zero => rfl
    | succ k => rw [padBytes, List.getElem?_cons_succ, ih (i + 1) (by omega), Nat.add_right_comm, Nat.add_assoc]

/-- What `BBPAD` appends to a buffer of `len` bits: the terminator with the alignment zeros, the whole pad bytes, and
zeros up to `cap` (R147). -/
def padBits (len cap term : Nat) : List Bool :=
  let z := specAligned len cap term
  let n := (cap - (len + z)) / 8
  List.replicate z false ++ (bitsOfBytes (padBytes 0 n) ++ List.replicate (cap - (len + z + 8 * n)) false)

/-- The terminator and the alignment zeros are one run of `specAligned` zeros (R147). -/
theorem padTo_eq (bb : List Bool) (cap term : Nat) : padTo bb cap term = bb ++ padBits bb.length cap term := by
  simp only [padTo, padBits, specAligned, appendBits, bitsOf_zero_left, List.length_append, List.length_replicate,
    bitsOfBytes_length, padBytes_length, List.append_assoc, ← List.replicate_append_replicate, Nat.add_assoc]

/-- Bit `j` of what `BBPAD` appends is that of R147 and R149. -/
theorem padBits_get {len cap term j : Nat} (hj : j < (padBits len cap term).length) :
    (padBits len cap term)[j]? = some (specPadBit len cap term j) := by
  simp only [padBits, List.length_append, List.length_replicate, bitsOfBytes_length, padBytes_length] at hj
  simp only [padBits, specPadBit]
  generalize specAligned len cap term = z at hj ⊢
  generalize (cap - (len + z)) / 8 = n at hj ⊢
  by_cases hz : j < z
  · rw [if_pos hz, List.getElem?_append_left (by simpa using hz), List.getElem?_replicate_of_lt hz]
  rw [if_neg hz, List.getElem?_append_right (by simpa using hz), List.length_replicate]
  by_cases hpad : j < z + 8 * n
  · rw [if_pos hpad, List.getElem?_append_left (by simp; omega), bitsOfBytes_get (by simp; omega),
      List.getD_eq_getElem?_getD, padBytes_get 0 (by omega), Option.getD_some, Nat.zero_add]
  · rw [if_neg hpad, List.getElem?_append_right (by simp; omega), bitsOfBytes_length, padBytes_length,
      List.getElem?_replicate_of_lt (by omega)]

/-- Settles O13: `padTo_eq` names the bits appended, `padTo_length` counts them and `padBits_get` gives each. -/
theorem bbpadPadsToCapacity : Obligations.BbpadPadsToCapacity := by
  refine ⟨by decide, fun s => ⟨fun hsym => ?_, fun hsym hclass => ?_, fun hsym hclass hcap => ?_,
    fun hsym hclass hcap => ⟨padBits s.bb.length s.cap.toNat (specTerm s), ?_, ?_, fun j => padBits_get⟩⟩⟩
  · rw [exec_bbpad, if_pos hsym]
  · rw [exec_bbpad, if_neg (not_not.2 hsym), if_pos hclass]
  · rw [exec_bbpad, if_neg (not_not.2 hsym), if_neg hclass, if_pos hcap]
  · rw [exec_bbpad, if_neg (not_not.2 hsym), if_neg hclass, if_neg (not_lt.2 hcap), padTo_eq]
  · rw [← List.length_append, ← padTo_eq, padTo_length hcap]

end Sys2Proof.Machine

namespace Sys2Proof.Machine

open Function

/-! ### The powers of `x` in the field (R170, R171) -/

/-- Doubling modulo 0x11D, on numbers (R170). -/
theorem xtime_toNat (a : Byte) :
    (xtime a).toNat = if 128 ≤ a.toNat then (2 * a.toNat) ^^^ 0x11D else 2 * a.toNat := by
  have htop : a.getLsbD 7 = decide (128 ≤ a.toNat) := BitVec.msb_eq_decide a
  have hshift : (a <<< 1).toNat = 2 * a.toNat % 2 ^ 8 := by
    rw [BitVec.toNat_shiftLeft, Nat.shiftLeft_eq, Nat.mul_comm, pow_one]
  have ha : a.toNat < 256 := a.isLt
  rw [xtime, htop]
  by_cases h : 128 ≤ a.toNat
  · have hhigh : (2 * a.toNat ^^^ 0x11D) / 2 ^ 8 = 0 := by
      rw [Nat.xor_div_two_pow, show 2 * a.toNat / 2 ^ 8 = 1 by omega]
      rfl
    have hlow : (2 * a.toNat ^^^ 0x11D) % 2 ^ 8 = 2 * a.toNat % 2 ^ 8 ^^^ 0x1D % 2 ^ 8 := Nat.xor_mod_two_pow
    simp only [h, decide_true, if_true, BitVec.toNat_xor, hshift, BitVec.toNat_ofNat]
    omega
  · simp only [h, decide_false, Bool.false_eq_true, if_false, hshift]
    omega

theorem xtime_zero : xtime 0#8 = 0#8 := rfl

theorem gfExp_eq_iterate (i : Nat) : gfExp i = xtime^[i] 1#8 := by
  induction i with
  | zero => rfl
  | succ i ih => rw [gfExp, ih, iterate_succ_apply']

theorem gfExp_add (i j : Nat) : gfExp (i + j) = xtime^[i] (gfExp j) := by
  rw [gfExp_eq_iterate, gfExp_eq_iterate, iterate_add_apply]

theorem gfExp_255 : gfExp 255 = 1#8 := by decide +kernel

theorem gfExp_periodic : Function.Periodic gfExp 255 := fun i => by
  rw [gfExp_add, gfExp_255, gfExp_eq_iterate]

/-- From a power that is 0 on, all powers would be 0, the powers `255 * k` too. -/
theorem gfExp_ne_zero (i : Nat) : gfExp i ≠ 0#8 := by
  intro h
  have hone : gfExp (254 * i + i) = 1#8 := by
    rw [← gfExp_periodic.map_mod_nat, show (254 * i + i) % 255 = 0 by omega]
    rfl
  rw [gfExp_add, h, iterate_fixed xtime_zero] at hone
  exact absurd hone (by decide)

/-- The order of `x` divides 255, and no proper divisor of 255 is a period of the table (R170, R173). -/
theorem minimalPeriod_xtime : minimalPeriod xtime 1#8 = 255 := by
  have hdvd : minimalPeriod xtime 1#8 ∣ 255 :=
    IsPeriodicPt.minimalPeriod_dvd ((gfExp_eq_iterate 255).symm.trans gfExp_255)
  have hone : gfExp (minimalPeriod xtime 1#8) = 1#8 :=
    (gfExp_eq_iterate _).trans (isPeriodicPt_minimalPeriod xtime 1#8)
  have hproper : ∀ p ∈ Nat.divisors 255, gfExp p = 1#8 → p = 255 := by decide +kernel
  exact hproper _ (Nat.mem_divisors.2 ⟨hdvd, by decide⟩) hone

theorem gfExp_injOn : Set.InjOn gfExp (Set.Iio 255) := by
  have h := iterate_injOn_Iio_minimalPeriod (f := xtime) (x := 1#8)
  rw [minimalPeriod_xtime] at h
  exact h.congr fun i _ => (gfExp_eq_iterate i).symm

/-- The 255 first powers are 255 different nonzero bytes, and there are no more (R173). -/
theorem exists_gfExp_eq {a : Byte} (ha : a ≠ 0#8) : ∃ i < 255, gfExp i = a := by
  have hpos {b : Byte} (hb : b ≠ 0#8) : b.toNat ∈ Finset.Ioo 0 256 :=
    Finset.mem_Ioo.2 ⟨Nat.pos_of_ne_zero fun h => hb (BitVec.eq_of_toNat_eq h), b.isLt⟩
  have hsurj : Set.SurjOn (fun i => (gfExp i).toNat) (Finset.range 255) (Finset.Ioo 0 256) :=
    Finset.surjOn_of_injOn_of_card_le _ (fun i _ => hpos (gfExp_ne_zero i))
      (fun i hi j hj h => gfExp_injOn (by simpa using hi) (by simpa using hj) (BitVec.eq_of_toNat_eq h)) (by simp)
  obtain ⟨i, hi, h⟩ := hsurj (hpos ha)
  exact ⟨i, by simpa using hi, BitVec.eq_of_toNat_eq h⟩

/-- Settles O16: `x` has order 255, so the table takes every nonzero byte once in a period. -/
theorem expTableIsPrimitive : Obligations.ExpTableIsPrimitive := by
  refine ⟨rfl, fun i => xtime_toNat (gfExp i), gfExp_periodic, fun a ha => ?_⟩
  obtain ⟨i, hi, rfl⟩ := exists_gfExp_eq ha
  exact ⟨i, by omega, rfl, fun j hj h => gfExp_injOn (Set.mem_Iio.2 (by omega)) hi h⟩

/-! ### Logarithm and product (R171, R172) -/

/-- The search of `gfLogFrom` is a search of the table. -/
theorem gfLogFrom_eq_find? (a : Byte) (fuel i : Nat) :
    gfLogFrom a fuel i (gfExp i) = (List.range' i (fuel + 1)).find? (gfExp · = a) := by
  induction fuel generalizing i with
  | zero => by_cases h : gfExp i = a <;> simp [gfLogFrom, h]
  | succ fuel ih =>
    rw [gfLogFrom, List.range'_succ, List.find?_cons, ← ih (i + 1), gfExp]
    by_cases h : gfExp i = a <;> simp [h]

theorem gfLog_eq_find? (a : Byte) : gfLog a = (List.range' 0 255).find? (gfExp · = a) := gfLogFrom_eq_find? a 254 0

@[simp] theorem gfLog_zero : gfLog 0#8 = none := by
  rw [gfLog_eq_find?, List.find?_eq_none]
  exact fun i _ => by simpa using gfExp_ne_zero i

@[simp] theorem gfLog_gfExp {i : Nat} (hi : i < 255) : gfLog (gfExp i) = some i := by
  rw [gfLog_eq_find?]
  cases h : (List.range' 0 255).find? (gfExp · = gfExp i) with
  | none => exact absurd (decide_eq_true rfl) (List.find?_eq_none.1 h i (List.mem_range'_1.2 (by omega)))
  | some k =>
    have hk := List.mem_range'_1.1 (List.mem_of_find?_eq_some h)
    exact congrArg some (gfExp_injOn (Set.mem_Iio.2 (by omega)) hi (by simpa using List.find?_some h))

@[simp] theorem gfMul_zero_left (b : Byte) : gfMul 0#8 b = 0#8 := by simp [gfMul]

@[simp] theorem gfMul_zero_right (a : Byte) : gfMul a 0#8 = 0#8 := by simp [gfMul]

theorem gfMul_gfExp {i j : Nat} (hi : i < 255) (hj : j < 255) : gfMul (gfExp i) (gfExp j) = gfExp (i + j) := by
  simp [gfMul, hi, hj]

/-- Multiplying by `x^i` is multiplying `i` times by `x`. -/
theorem gfMul_gfExp_left {i : Nat} (hi : i < 255) (b : Byte) : gfMul (gfExp i) b = xtime^[i] b := by
  by_cases hb : b = 0#8
  · rw [hb, gfMul_zero_right, iterate_fixed xtime_zero]
  · obtain ⟨j, hj, rfl⟩ := exists_gfExp_eq hb
    rw [gfMul_gfExp hi hj, gfExp_add]

/-! ### Polynomials over GF(2) -/

/-- One round of `clMul a b`. -/
def clStep (b a acc i : Nat) : Nat := if b.testBit i then acc ^^^ (a <<< i) else acc

theorem clMul_eq_foldl (a b : Nat) : clMul a b = (List.range (Nat.log2 b + 1)).foldl (clStep b a) 0 := rfl

theorem clMul_xor_left (a a' b : Nat) : clMul (a ^^^ a') b = clMul a b ^^^ clMul a' b := by
  refine List.foldl_hom₂ _ (· ^^^ ·) (clStep b a) (clStep b a') (clStep b (a ^^^ a')) 0 0 fun x y i => ?_
  unfold clStep
  split
  · rw [Nat.shiftLeft_xor_distrib]
    ac_rfl
  · rfl

theorem clMul_shiftLeft_left (a b k : Nat) : clMul (a <<< k) b = clMul a b <<< k := by
  simp only [clMul_eq_foldl]
  rw [← List.foldl_hom (· <<< k) (g₂ := clStep b (a <<< k)), Nat.zero_shiftLeft]
  intro x i
  unfold clStep
  split
  · rw [Nat.shiftLeft_xor_distrib, ← Nat.shiftLeft_add, ← Nat.shiftLeft_add, Nat.add_comm]
  · rfl

theorem clMul_zero_left (b : Nat) : clMul 0 b = 0 := by
  simpa using clMul_xor_left 0 0 b

/-- `1` times the terms of `b` of degree below `n`. -/
theorem testBit_foldl_clStep_one (b n k : Nat) :
    ((List.range n).foldl (clStep b 1) 0).testBit k = (decide (k < n) && b.testBit k) := by
  induction n with
  | zero => simp
  | succ n ih =>
    rw [List.range_succ, List.foldl_append, List.foldl_cons, List.foldl_nil, clStep, Nat.one_shiftLeft]
    by_cases hk : k = n
    · cases hb : b.testBit n <;> simp [hk ▸ ih, hk, hb]
    · have hlt : k < n + 1 ↔ k < n := by omega
      cases hb : b.testBit n <;> simp [ih, hlt, Nat.testBit_two_pow_of_ne (Ne.symm hk)]

theorem clMul_one_left (b : Nat) : clMul 1 b = b := by
  refine Nat.eq_of_testBit_eq fun k => ?_
  rw [clMul_eq_foldl, testBit_foldl_clStep_one]
  by_cases hk : k < Nat.log2 b + 1
  · simp [hk]
  · have hb : b < 2 ^ k := Nat.lt_log2_self.trans_le (Nat.pow_le_pow_right (by decide) (by omega))
    simp [Nat.testBit_lt_two_pow hb]

/-! ### The multiples of the field polynomial (R170) -/

/-- `n` is a multiple of 0x11D as a polynomial over GF(2). -/
def FieldMultiple (n : Nat) : Prop := ∃ q, clMul q 0x11D = n

namespace FieldMultiple

theorem zero : FieldMultiple 0 := ⟨0, clMul_zero_left _⟩

theorem modulus : FieldMultiple 0x11D := ⟨1, clMul_one_left _⟩

variable {m n : Nat}

theorem xor (hm : FieldMultiple m) (hn : FieldMultiple n) : FieldMultiple (m ^^^ n) := by
  obtain ⟨p, rfl⟩ := hm
  obtain ⟨q, rfl⟩ := hn
  exact ⟨p ^^^ q, clMul_xor_left p q _⟩

theorem shiftLeft (hn : FieldMultiple n) (k : Nat) : FieldMultiple (n <<< k) := by
  obtain ⟨q, rfl⟩ := hn
  exact ⟨q <<< k, clMul_shiftLeft_left q _ k⟩

theorem clMul (hn : FieldMultiple n) (b : Nat) : FieldMultiple (clMul n b) := by
  rw [clMul_eq_foldl]
  refine List.foldlRecOn _ _ zero fun acc hacc i _ => ?_
  unfold clStep
  split
  · exact hacc.xor (hn.shiftLeft i)
  · exact hacc

/-- `xtime` reduces `x` times its argument. -/
theorem shiftLeft_xor_xtime (a : Byte) : FieldMultiple (a.toNat <<< 1 ^^^ (xtime a).toNat) := by
  rw [xtime_toNat, Nat.shiftLeft_eq, pow_one, Nat.mul_comm]
  split
  · rw [Nat.xor_xor_cancel_left]
    exact modulus
  · rw [Nat.xor_self]
    exact zero

/-- `x^i` times `b`, reduced after every doubling, is congruent to the product of the reduced `x^i` and `b`. -/
theorem clMul_gfExp_xor (i : Nat) (b : Byte) :
    FieldMultiple (Machine.clMul (gfExp i).toNat b.toNat ^^^ (xtime^[i] b).toNat) := by
  induction i with
  | zero =>
    rw [show (gfExp 0).toNat = 1 from rfl, clMul_one_left, iterate_zero_apply, Nat.xor_self]
    exact zero
  | succ i ih =>
    rw [gfExp, iterate_succ_apply']
    have h := (((shiftLeft_xor_xtime (gfExp i)).clMul b.toNat).xor (ih.shiftLeft 1)).xor
      (shiftLeft_xor_xtime (xtime^[i] b))
    rw [clMul_xor_left, clMul_shiftLeft_left, Nat.shiftLeft_xor_distrib] at h
    convert h using 1
    simp [Nat.xor_assoc, Nat.xor_comm, Nat.xor_left_comm]

/-- R172: product and field product are congruent modulo 0x11D. -/
theorem clMul_xor_gfMul (a b : Byte) : FieldMultiple (Machine.clMul a.toNat b.toNat ^^^ (gfMul a b).toNat) := by
  by_cases ha : a = 0#8
  · subst ha
    rw [gfMul_zero_left, show (0#8).toNat = 0 from rfl, clMul_zero_left, Nat.xor_self]
    exact zero
  · obtain ⟨i, hi, rfl⟩ := exists_gfExp_eq ha
    rw [gfMul_gfExp_left hi]
    exact clMul_gfExp_xor i b

end FieldMultiple

/-- Settles O17: the quotient is that of the multiple by which product and field product differ. -/
theorem productIsModuloPolynomial : Obligations.ProductIsModuloPolynomial := by
  intro a b
  obtain ⟨q, hq⟩ := FieldMultiple.clMul_xor_gfMul a b
  exact ⟨q, by rw [hq, Nat.xor_xor_cancel_right]⟩

/-! ### GFMUL, GFEXP, GFLOG -/

/-- Settles O18: the result is `gfMul`. -/
theorem gfmulGivesProduct : Obligations.GfmulGivesProduct := by
  refine ⟨fun a b => ?_, fun a b s => ⟨gfMul a b, rfl, ?_, ?_⟩⟩
  · have hlow : 0#8 ++ (b ++ a) = (0#8 ++ b) ++ a := BitVec.append_assoc.symm
    have hword : 0x1000#16 ++ (b ++ a) = 0x10#8 ++ ((0#8 ++ b) ++ a) :=
      hlow ▸ BitVec.append_assoc (x₁ := 0x10#8) (x₂ := 0#8)
    exact hword ▸ decodeOfEncode (.gfmul a b) rfl
  · rintro (rfl | rfl)
    · exact gfMul_zero_left b
    · exact gfMul_zero_right a
  · rintro i hi j hj rfl rfl
    exact gfMul_gfExp (by omega) (by omega)

/-- Settles O19: `GFEXP` has one outcome. -/
theorem gfexpGivesPower : Obligations.GfexpGivesPower := by
  refine ⟨fun e => ?_, fun _ _ => rfl⟩
  have hword : 0x088000#23 ++ e = 0x11#8 ++ (0#15 ++ e) := BitVec.append_assoc (x₁ := 0x11#8) (x₂ := 0#15)
  exact hword ▸ decodeOfEncode (.gfexp e) rfl

/-- Settles O20: `gfLog` has no value at 0, and at `EXP[i]` it is `i`. -/
theorem gflogGivesLogarithm : Obligations.GflogGivesLogarithm := by
  refine ⟨fun a => ?_, fun a s => ⟨fun ha => ?_, fun ha => ?_⟩⟩
  · have hword : 0x120000#24 ++ a = 0x12#8 ++ (0#16 ++ a) := BitVec.append_assoc (x₁ := 0x12#8) (x₂ := 0#16)
    exact hword ▸ decodeOfEncode (.gflog a) rfl
  · rw [ha, exec, execGflog, gfLog_zero]
    rfl
  · obtain ⟨i, hi, rfl⟩ := exists_gfExp_eq ha
    refine ⟨i, by omega, rfl, ?_⟩
    rw [exec, execGflog, gfLog_gfExp hi]
    rfl

end Sys2Proof.Machine

namespace Sys2Proof.Machine

open Function

/-! ### The laws of the field (R172) -/

/-- What `xtime` subtracts to reduce (R170). -/
def xtimeReduction (a : Byte) : Byte := if a.getLsbD 7 then 0x1D#8 else 0#8

theorem xtime_eq_xor (a : Byte) : xtime a = (a <<< 1) ^^^ xtimeReduction a := by
  rw [xtime, xtimeReduction]
  split
  · rfl
  · rw [BitVec.xor_zero]

theorem xtimeReduction_xor (a b : Byte) : xtimeReduction (a ^^^ b) = xtimeReduction a ^^^ xtimeReduction b := by
  simp only [xtimeReduction, BitVec.getLsbD_xor]
  cases a.getLsbD 7 <;> cases b.getLsbD 7 <;> rfl

theorem xtime_xor (a b : Byte) : xtime (a ^^^ b) = xtime a ^^^ xtime b := by
  have hshift : (a ^^^ b) <<< 1 = (a <<< 1) ^^^ (b <<< 1) := BitVec.shiftLeft_xor_distrib ..
  rw [xtime_eq_xor, xtime_eq_xor a, xtime_eq_xor b, hshift, xtimeReduction_xor]
  ac_rfl

theorem gfMul_comm (a b : Byte) : gfMul a b = gfMul b a := by
  unfold gfMul
  cases gfLog a <;> cases gfLog b <;> simp [Nat.add_comm]

/-- Multiplying by a power of `x` is additive because `xtime` is. -/
theorem gfMul_xor_right (a b c : Byte) : gfMul a (b ^^^ c) = gfMul a b ^^^ gfMul a c := by
  by_cases ha : a = 0#8
  · simp [ha]
  · obtain ⟨i, hi, rfl⟩ := exists_gfExp_eq ha
    simp only [gfMul_gfExp_left hi]
    exact Semiconj₂.iterate xtime_xor i b c

theorem gfMul_xor_left (a b c : Byte) : gfMul (a ^^^ b) c = gfMul a c ^^^ gfMul b c := by
  rw [gfMul_comm, gfMul_xor_right, gfMul_comm c a, gfMul_comm c b]

/-- Powers of `x` multiply `b` one after the other, in either order. -/
theorem gfMul_left_comm (a b c : Byte) : gfMul a (gfMul b c) = gfMul b (gfMul a c) := by
  by_cases ha : a = 0#8
  · simp [ha]
  by_cases hb : b = 0#8
  · simp [hb]
  obtain ⟨i, hi, rfl⟩ := exists_gfExp_eq ha
  obtain ⟨j, hj, rfl⟩ := exists_gfExp_eq hb
  simp only [gfMul_gfExp_left hi, gfMul_gfExp_left hj]
  exact (Commute.iterate_iterate_self xtime i j).eq c

theorem gfMul_assoc (a b c : Byte) : gfMul (gfMul a b) c = gfMul a (gfMul b c) := by
  rw [gfMul_comm, gfMul_left_comm, gfMul_comm c b]

theorem gfMul_one_left (b : Byte) : gfMul 1#8 b = b := gfMul_gfExp_left (i := 0) (by decide) b

theorem gfMul_one_right (a : Byte) : gfMul a 1#8 = a := by rw [gfMul_comm, gfMul_one_left]

/-! ### Horner's rule (R193) -/

/-- Horner's rule for `c`, highest degree first, entered with the value `acc` of the coefficients before it. -/
def evalFrom (x acc : Byte) (c : List Byte) : Byte := c.foldl (fun acc a => gfMul acc x ^^^ a) acc

theorem evalHigh_eq_evalFrom (c : List Byte) (x : Byte) : evalHigh c x = evalFrom x 0#8 c := rfl

@[simp] theorem evalFrom_nil (x acc : Byte) : evalFrom x acc [] = acc := rfl

@[simp] theorem evalFrom_cons (x acc a : Byte) (c : List Byte) :
    evalFrom x acc (a :: c) = evalFrom x (gfMul acc x ^^^ a) c := rfl

@[simp] theorem evalFrom_append (x acc : Byte) (c d : List Byte) :
    evalFrom x acc (c ++ d) = evalFrom x (evalFrom x acc c) d := List.foldl_append

/-- Leading zeros leave the value. -/
@[simp] theorem evalFrom_replicate_zero (x : Byte) (n : Nat) : evalFrom x 0#8 (List.replicate n 0#8) = 0#8 := by
  induction n with
  | zero => rfl
  | succ n ih => simpa [List.replicate_succ] using ih

/-- Values add. -/
theorem evalFrom_zipWith_gfAdd (x : Byte) {c d : List Byte} (h : c.length = d.length) (p q : Byte) :
    evalFrom x (p ^^^ q) (List.zipWith gfAdd c d) = evalFrom x p c ^^^ evalFrom x q d := by
  induction c generalizing d p q with
  | nil =>
    obtain rfl := List.length_eq_zero_iff.1 h.symm
    rfl
  | cons a c ih =>
    obtain ⟨b, d, rfl⟩ := List.exists_cons_of_length_eq_add_one h.symm
    have hentry : gfMul (p ^^^ q) x ^^^ gfAdd a b = (gfMul p x ^^^ a) ^^^ (gfMul q x ^^^ b) := by
      rw [gfMul_xor_left, gfAdd]
      ac_rfl
    rw [List.zipWith_cons_cons, evalFrom_cons, hentry, ih (by simpa using h), evalFrom_cons, evalFrom_cons]

/-- A factor of all coefficients is a factor of the value. -/
theorem evalFrom_map_gfMul (x m : Byte) (c : List Byte) (p : Byte) :
    evalFrom x (gfMul m p) (c.map (gfMul m)) = gfMul m (evalFrom x p c) := by
  rw [evalFrom, List.foldl_map]
  exact List.foldl_hom (gfMul m) fun p a => by rw [gfMul_xor_right, gfMul_assoc]

/-! ### The generator polynomial (R190, R192) -/

/-- One round of R192 multiplies by `x ⊕ e`. -/
theorem evalHigh_mulRoot (c : List Byte) (e x : Byte) :
    evalHigh (mulRoot c e).reverse x = gfMul (evalHigh c.reverse x) (x ^^^ e) := by
  have hright : (fun a => gfMul a e) = gfMul e := funext fun a => gfMul_comm a e
  have hshifted : evalFrom x 0#8 (0#8 :: c).reverse = gfMul (evalFrom x 0#8 c.reverse) x := by simp
  have hscaled : evalFrom x 0#8 (c.map (gfMul e) ++ [0#8]).reverse = gfMul e (evalFrom x 0#8 c.reverse) := by
    rw [← evalFrom_map_gfMul]
    simp
  have hsum := evalFrom_zipWith_gfAdd x (c := (0#8 :: c).reverse) (d := (c.map (gfMul e) ++ [0#8]).reverse)
    (by simp) 0#8 0#8
  rw [mulRoot, hright, List.reverse_zipWith (by simp), gfMul_xor_right, gfMul_comm _ e]
  rw [hshifted, hscaled] at hsum
  exact hsum

theorem rootProduct_succ (k : Nat) (x : Byte) : rootProduct (k + 1) x = gfMul (rootProduct k x) (x ^^^ gfExp k) := by
  simp [rootProduct, List.range_succ]

/-- `g_k` takes the values of `∏ (x ⊕ α^i)`, `i < k` (R190). -/
theorem evalHigh_genPoly (k : Nat) (x : Byte) : evalHigh (genPoly k).reverse x = rootProduct k x := by
  induction k with
  | zero => simp [evalHigh_eq_evalFrom, genPoly, rootProduct]
  | succ k ih => rw [genPoly, evalHigh_mulRoot, ih, rootProduct_succ]

/-- `g_k` is monic of degree `k` (R190). -/
theorem genPoly_get_top (k : Nat) : (genPoly k)[k]? = some 1#8 := by
  induction k with
  | zero => rfl
  | succ k ih => simpa [genPoly, mulRoot, gfAdd] using (List.getElem?_eq_some_iff.1 ih).2

/-- The product over the roots vanishes at each of them. -/
theorem rootProduct_root {k i : Nat} (hi : i < k) : rootProduct k (gfExp i) = 0#8 := by
  induction k with
  | zero => omega
  | succ k ih =>
    rw [rootProduct_succ]
    obtain hlt | rfl := Nat.lt_succ_iff_lt_or_eq.1 hi
    · rw [ih hlt, gfMul_zero_left]
    · rw [BitVec.xor_self, gfMul_zero_right]

/-! ### RSGEN -/

/-- `GEN` holds the coefficients and then zeros (R59). -/
theorem genFile_toList {c : List Byte} (hc : c.length ≤ 256) :
    (genFile c).toList = c ++ List.replicate (256 - c.length) 0#8 := by
  have hfile : (genFile c).toList = (c ++ List.replicate 256 0#8).take 256 := rfl
  rw [hfile, List.take_append, List.take_of_length_le hc, List.take_replicate, Nat.min_eq_left (Nat.sub_le _ _)]

/-- Reading `GEN` is reading the coefficients, 0 past the last one (R59). -/
theorem genFile_getD {c : List Byte} (hc : c.length ≤ 256) (j : Nat) :
    (genFile c).toList.getD j 0#8 = c.getD j 0#8 := by
  rw [genFile_toList hc]
  by_cases hj : j < c.length
  · rw [List.getD_append _ _ _ _ hj]
  · rw [List.getD_append_right _ _ _ _ (not_lt.1 hj), List.getD_eq_default c _ (not_lt.1 hj)]
    simp

/-- The zeros past the degree do not change the value of the polynomial in `GEN`. -/
theorem evalHigh_genFile {c : List Byte} (hc : c.length ≤ 256) (x : Byte) :
    evalHigh (genFile c).toList.reverse x = evalHigh c.reverse x := by
  simp [genFile_toList hc, evalHigh_eq_evalFrom]

/-- Settles O21: `GEN` holds `genPoly k`, which is monic and takes the values of the product. -/
theorem rsgenLoadsGenerator : Obligations.RsgenLoadsGenerator := by
  refine ⟨fun k => ?_, fun k s => ⟨genFile (genPoly k.toNat), rfl, ?_⟩⟩
  · have hword : 0x200000#24 ++ k = 0x20#8 ++ (0#16 ++ k) := BitVec.append_assoc (x₁ := 0x20#8) (x₂ := 0#16)
    exact hword ▸ decodeOfEncode (.rsgen k) rfl
  · have hlen : (genPoly k.toNat).length ≤ 256 := by
      have := k.isLt
      rw [genPoly_length]
      omega
    refine ⟨?_, fun j hj => ?_, fun x => ?_⟩
    · rw [genFile_getD hlen, List.getD_eq_getElem?_getD, genPoly_get_top, Option.getD_some]
    · rw [genFile_getD hlen, List.getD_eq_default _ _ (by rw [genPoly_length]; omega)]
    · rw [evalHigh_genFile hlen, evalHigh_genPoly]

/-! ### EC codewords -/

/-- A round of the shift register replaces the remainder `r` after the data read so far by one that fits the next data
byte `d`: at a root of the monic generator `1, g` the value stays 0 (R196). -/
theorem evalFrom_rsRound {x p : Byte} {g r : List Byte} (hg : evalFrom x 1#8 g = 0#8) (hlen : g.length = r.length)
    (hr : evalFrom x p r = 0#8) (d : Byte) : evalFrom x (gfMul p x ^^^ d) (rsRound g r d) = 0#8 := by
  cases r with
  | nil =>
    obtain rfl := List.length_eq_zero_iff.1 hlen
    exact absurd (evalFrom_nil x 1#8 ▸ hg) (by decide)
  | cons r0 rest =>
    have hshifted : evalFrom x (gfMul p x ^^^ r0) (rest ++ [0#8]) = 0#8 := by
      rw [evalFrom_cons] at hr
      simp [hr]
    have hscaled : evalFrom x (gfAdd d r0) (g.map (gfMul (gfAdd d r0))) = 0#8 := by
      have h := evalFrom_map_gfMul x (gfAdd d r0) g 1#8
      rwa [gfMul_one_right, hg, gfMul_zero_right] at h
    have hfeed : gfMul p x ^^^ d = (gfMul p x ^^^ r0) ^^^ gfAdd d r0 := by
      rw [gfAdd, BitVec.xor_comm d, BitVec.xor_assoc, ← BitVec.xor_assoc r0, BitVec.xor_self, BitVec.zero_xor]
    rw [rsRound, hfeed, evalFrom_zipWith_gfAdd x (by simpa using hlen.symm), hshifted, hscaled, BitVec.xor_self]

/-- The data followed by the remainder the shift register ends with has value 0 if it had with the remainder it began
with (R196). -/
theorem evalFrom_append_rsRounds {x p : Byte} {g r : List Byte} (hg : evalFrom x 1#8 g = 0#8)
    (hlen : g.length = r.length) (hr : evalFrom x p r = 0#8) (data : List Byte) :
    evalFrom x p (data ++ data.foldl (rsRound g) r) = 0#8 := by
  induction data generalizing p r with
  | nil => exact hr
  | cons d data ih =>
    exact ih (hlen.trans (rsRound_length hlen d).symm) (evalFrom_rsRound hg hlen hr d)

/-- `g_k`, highest degree first, is 1 and the coefficients the shift register uses (R196). -/
theorem genPoly_reverse (k : Nat) : (genPoly k).reverse = 1#8 :: ((genPoly k).take k).reverse := by
  have hsplit : genPoly k = (genPoly k).take k ++ [1#8] := by
    conv_lhs => rw [← List.take_of_length_le (genPoly_length k).le, List.take_add_one, genPoly_get_top]
    rfl
  conv_lhs => rw [hsplit, List.reverse_append, List.reverse_singleton, List.singleton_append]

/-- Settles O22: the coefficients of the shift register are those of `g_k`, which vanishes at its roots, and no round
changes the value there. -/
theorem ecCodewordsVanishAtRoots : Obligations.EcCodewordsVanishAtRoots := by
  refine fun data k _ => ⟨rsEc_length data k, fun i hi => ?_⟩
  have hroot : evalFrom (gfExp i) 1#8 ((genPoly k).take k).reverse = 0#8 := by
    have h := (evalHigh_genPoly k (gfExp i)).trans (rootProduct_root hi)
    rwa [genPoly_reverse, evalHigh_eq_evalFrom, evalFrom_cons, gfMul_zero_left, BitVec.zero_xor] at h
  exact evalFrom_append_rsRounds hroot (by simp) (evalFrom_replicate_zero _ k) data

/-! ### The places of the data codewords -/

/-- The columns before column `i` hold as many codewords as stand before its first place (R205). -/
def columnStart (s : State) (i : Nat) : Nat := ∑ b ∈ Finset.range (specBlocks s), min (specLen s b) i

/-- The blocks before block `b` that reach column `i` (R205). -/
def reachedBefore (s : State) (b i : Nat) : Nat := ((Finset.range b).filter (fun b' => i < specLen s b')).card

theorem specDataPos_eq (s : State) (b i : Nat) : specDataPos s b i = columnStart s i + reachedBefore s b i := rfl

/-- A column ends after the blocks that reach it. -/
theorem columnStart_succ (s : State) (i : Nat) :
    columnStart s (i + 1) = columnStart s i + reachedBefore s (specBlocks s) i := by
  rw [columnStart, columnStart, reachedBefore, Finset.card_filter, ← Finset.sum_add_distrib]
  refine Finset.sum_congr rfl fun b _ => ?_
  split <;> omega

theorem columnStart_mono (s : State) : Monotone (columnStart s) :=
  monotone_nat_of_le_succ fun i => by rw [columnStart_succ]; omega

/-- All the blocks together are the data region (R200). -/
theorem specOff_specBlocks (s : State) : specOff s (specBlocks s) = specData s := by
  rw [← blockLens_take_sum s le_rfl, List.take_of_length_le (by simp), blockLens_sum]

theorem columnStart_le (s : State) (i : Nat) : columnStart s i ≤ specData s := by
  rw [← specOff_specBlocks]
  exact Finset.sum_le_sum fun b _ => min_le_left _ _

/-- A block that reaches the column is counted for every later block. -/
theorem reachedBefore_lt {s : State} {b b' i : Nat} (hi : i < specLen s b) (hb : b < b') :
    reachedBefore s b i < reachedBefore s b' i := by
  have hsub : (Finset.range b).filter (fun c => i < specLen s c)
      ⊆ (Finset.range b').filter (fun c => i < specLen s c) :=
    Finset.filter_subset_filter _ (Finset.range_mono hb.le)
  exact Finset.card_lt_card ((Finset.ssubset_iff_of_subset hsub).2 ⟨b, by simp [hb, hi], by simp⟩)

/-- The places of a column come before the next column starts. -/
theorem specDataPos_lt {s : State} {b i : Nat} (hb : b < specBlocks s) (hi : i < specLen s b) :
    specDataPos s b i < columnStart s (i + 1) := by
  rw [specDataPos_eq, columnStart_succ]
  exact Nat.add_lt_add_left (reachedBefore_lt hi hb) _

/-- A codeword of an earlier column stands before one of a later column (R205). -/
theorem specDataPos_lt_of_column {s : State} {b b' i i' : Nat} (hb : b < specBlocks s) (hi : i < specLen s b)
    (h : i < i') : specDataPos s b i < specDataPos s b' i' :=
  calc specDataPos s b i < columnStart s (i + 1) := specDataPos_lt hb hi
    _ ≤ columnStart s i' := columnStart_mono s h
    _ ≤ specDataPos s b' i' := Nat.le_add_right _ _

/-- In a column the codewords stand in the order of their blocks (R205). -/
theorem specDataPos_lt_of_block {s : State} {b b' i : Nat} (hi : i < specLen s b) (h : b < b') :
    specDataPos s b i < specDataPos s b' i :=
  Nat.add_lt_add_left (reachedBefore_lt hi h) _

/-- No two codewords share a place: the earlier one in the order by column, then block, stands before the other. -/
theorem specDataPos_inj {s : State} {b b' i i' : Nat} (hb : b < specBlocks s) (hi : i < specLen s b)
    (hb' : b' < specBlocks s) (hi' : i' < specLen s b') (h : specDataPos s b i = specDataPos s b' i') :
    b = b' ∧ i = i' := by
  obtain hlt | rfl | hlt := Nat.lt_trichotomy i i'
  · exact absurd h (specDataPos_lt_of_column hb hi hlt).ne
  · obtain hlt | rfl | hlt := Nat.lt_trichotomy b b'
    · exact absurd h (specDataPos_lt_of_block hi hlt).ne
    · exact ⟨rfl, rfl⟩
    · exact absurd h (specDataPos_lt_of_block hi' hlt).ne'
  · exact absurd h (specDataPos_lt_of_column hb' hi' hlt).ne'

/-- The codewords of the data region: a block and the index of the codeword in it (R200). -/
def codewords (s : State) : Finset (Σ _ : Nat, Nat) :=
  (Finset.range (specBlocks s)).sigma fun b => Finset.range (specLen s b)

theorem mem_codewords {s : State} {x : Σ _ : Nat, Nat} :
    x ∈ codewords s ↔ x.1 < specBlocks s ∧ x.2 < specLen s x.1 := by simp [codewords]

theorem codewords_card (s : State) : (codewords s).card = specData s := by
  rw [codewords, Finset.card_sigma, ← specOff_specBlocks]
  exact Finset.sum_congr rfl fun b _ => Finset.card_range _

/-- There are as many codewords as places, and no two share one, so every place is taken. -/
theorem exists_specDataPos_eq {s : State} {p : Nat} (hp : p < specData s) :
    ∃ b < specBlocks s, ∃ i < specLen s b, specDataPos s b i = p := by
  have hsurj : Set.SurjOn (fun x : Σ _ : Nat, Nat => specDataPos s x.1 x.2) (codewords s)
      (Finset.range (specData s)) := by
    refine Finset.surjOn_of_injOn_of_card_le _ (fun x hx => ?_) (fun x hx y hy h => ?_) (by simp [codewords_card])
    · obtain ⟨hb, hi⟩ := mem_codewords.1 hx
      exact Finset.mem_coe.2 (Finset.mem_range.2 ((specDataPos_lt hb hi).trans_le (columnStart_le s _)))
    · obtain ⟨hb, hi⟩ := mem_codewords.1 hx
      obtain ⟨hb', hi'⟩ := mem_codewords.1 hy
      obtain ⟨hblock, hindex⟩ := specDataPos_inj hb hi hb' hi' h
      exact Sigma.ext hblock (heq_of_eq hindex)
  obtain ⟨⟨b, i⟩, hx, hpos⟩ := hsurj (by simpa using hp)
  obtain ⟨hb, hi⟩ := mem_codewords.1 hx
  exact ⟨b, hb, i, hi, hpos⟩

/-- Settles O26: every place is taken, and only once. -/
theorem interleavePlacesEachCodewordOnce : Obligations.InterleavePlacesEachCodewordOnce := by
  intro s p hp
  obtain ⟨b, hb, i, hi, rfl⟩ := exists_specDataPos_eq hp
  exact ⟨b, hb, i, hi, rfl, fun b' hb' i' hi' h => specDataPos_inj hb' hi' hb hi h⟩

end Sys2Proof.Machine

namespace Sys2Proof.Machine

/-! ### CVINIT -/

/-- `CVINIT` clears a canvas of the size that R231 gives, where it gives one. -/
theorem exec_cvinit_of_size {s : State} {cls : CvClass} {h w : Nat} (hsize : canvasSize s = some (cls, h, w)) :
    exec .cvinit s = .next { endsWith .none s with
      cvH := BitVec.ofNat 8 h, cvW := BitVec.ofNat 8 w, cvClass := cls, canvas := clearCanvas h w, cvstate := .empty
      masksel := { mask := 0#3, valid := false }, best := { mask := 0#3, valid := false }
      scores := Vector.replicate 8 0#32 } := by
  rw [exec, execCvinit, hsize]
  rfl

theorem exec_cvinit_of_no_size {s : State} (hsize : canvasSize s = none) :
    exec .cvinit s = .next (endsWith .invalidVersion s) := by
  rw [exec, execCvinit, hsize]
  rfl

theorem canvasSize_of_not_symOk {s : State} (h : ¬symOk s) : canvasSize s = none := by
  rw [← symValid_iff] at h
  simp [canvasSize, h]

theorem canvasSize_normal {s : State} (h : symOk s) (hc : s.symClass = 0#2) :
    canvasSize s = some (.normal, 4 * s.symVer.toNat + 17, 4 * s.symVer.toNat + 17) := by
  simp [canvasSize, (symValid_iff s).2 h, classOf, hc]

theorem canvasSize_micro {s : State} (h : symOk s) (hc : s.symClass = 1#2) :
    canvasSize s = some (.micro, 2 * s.symVer.toNat + 9, 2 * s.symVer.toNat + 9) := by
  simp [canvasSize, (symValid_iff s).2 h, classOf, hc]

/-- An rMQR canvas keeps the dimensions the host has written, if they are within `CANVAS_MAX` (R231). -/
theorem canvasSize_rmqr {s : State} (hc : s.symClass = 2#2) : canvasSize s =
    if 1 ≤ s.cvH.toNat ∧ s.cvH.toNat ≤ 177 ∧ 1 ≤ s.cvW.toNat ∧ s.cvW.toNat ≤ 177 then
      some (.rmqr, s.cvH.toNat, s.cvW.toNat) else none := by
  have hok : symOk s := .inr (.inr hc)
  simp only [canvasSize, (symValid_iff s).2 hok, classOf, hc]
  rfl

/-- A key listed in a memory of one value reads as that value. -/
theorem cellRead_of_const {α : Type} {v : α} {m : List (Nat × α)} (hv : ∀ p ∈ m, p.2 = v) {k : Nat}
    (hk : k ∈ m.map Prod.fst) : cellRead m k = some v := by
  induction m with
  | nil => cases hk
  | cons p rest ih =>
    obtain ⟨a, x⟩ := p
    obtain rfl : x = v := hv (a, x) List.mem_cons_self
    by_cases ha : a = k
    · exact if_pos ha
    · rw [cellRead, if_neg ha]
      refine ih (fun p hp => hv p (List.mem_cons_of_mem _ hp)) ?_
      exact (List.mem_cons.1 hk).resolve_left (Ne.symm ha)

/-- Every module of a cleared canvas is Light-data (R231). -/
theorem cellRead_clearCanvas {h w r c : Nat} (hr : r < h) (hc : c < w) :
    cellRead (clearCanvas h w) (256 * r + c) = some { function := false, dark := false } := by
  refine cellRead_of_const (fun p hp => ?_) ?_
  · simp only [clearCanvas, List.mem_flatMap, List.mem_map] at hp
    obtain ⟨_, -, _, -, rfl⟩ := hp
    rfl
  · simp only [clearCanvas, List.mem_map, List.mem_flatMap, List.mem_range]
    exact ⟨_, ⟨r, hr, c, hc, rfl⟩, rfl⟩

/-- Settles O27: `canvasSize` is R231's size, and `clearCanvas` is Light-data throughout. -/
theorem cvinitSizesAndClears : Obligations.CvinitSizesAndClears := by
  refine ⟨by decide, fun s => ?_⟩
  intro sized
  have of_size {cls : CvClass} {h w : Nat} (hsize : canvasSize s = some (cls, h, w)) : sized cls h w :=
    ⟨clearCanvas h w, exec_cvinit_of_size hsize, fun r hr c hc => cellRead_clearCanvas hr hc⟩
  refine ⟨fun hbad => ?_, fun hok hc => ?_, fun hok hc => ?_, fun hc h1 h2 h3 h4 => ?_, fun hc hbad => ?_⟩
  · exact exec_cvinit_of_no_size (canvasSize_of_not_symOk hbad)
  · exact of_size (canvasSize_normal hok hc)
  · exact of_size (canvasSize_micro hok hc)
  · exact of_size ((canvasSize_rmqr hc).trans (if_pos ⟨h1, h2, h3, h4⟩))
  · exact exec_cvinit_of_no_size ((canvasSize_rmqr hc).trans (if_neg hbad))

/-! ### The order of the placement path -/

/-- Taking in one more column on the right moves every column of the path by one place (R242). -/
theorem specPathColumn_succ (w t q : Nat) : specPathColumn (w + 1) t (q + 1) = specPathColumn w t q := by
  have h1 : w + 1 - 1 - (q + 1) = w - 1 - q := by omega
  have h2 : w + 1 - 2 - (q + 1) = w - 2 - q := by omega
  rw [specPathColumn, specPathColumn, h1, h2]

/-- The columns of the path are `C` of R242. -/
theorem pathColumns_eq {w t : Nat} (h : t < w) :
    pathColumns w t = (List.range (w - 1)).map (specPathColumn w t) := by
  have step (w : Nat) : pathColumns (w + 1) t = if w = t then pathColumns w t else w :: pathColumns w t := by
    by_cases hw : w = t <;> simp [pathColumns, List.range_succ, hw]
  induction w, h using Nat.le_induction with
  | base =>
    have hall : pathColumns t t = (List.range t).reverse :=
      List.filter_eq_self.2 fun c hc => by simpa using (List.mem_range.1 (List.mem_reverse.1 hc)).ne
    rw [step, if_pos rfl, hall, Nat.succ_sub_one, List.range_eq_range', List.reverse_range', ← List.range_eq_range']
    refine List.map_congr_left fun q hq => ?_
    rw [specPathColumn, if_neg (by omega)]
    omega
  | succ w hw ih =>
    obtain ⟨n, rfl⟩ : ∃ n, w = n + 1 := ⟨w - 1, by omega⟩
    rw [step, if_neg (by omega), ih, Nat.add_sub_cancel, Nat.add_sub_cancel, List.range_succ_eq_map, List.map_cons,
      List.map_map]
    congr 1
    · rw [specPathColumn, if_pos (by omega)]
      omega
    · exact List.map_congr_left fun q _ => (specPathColumn_succ _ t q).symm

theorem pairUp_length : ∀ l : List Nat, (pairUp l).length = l.length / 2
  | [] => rfl
  | [_] => by simp [pairUp]
  | _ :: _ :: rest => by
    rw [pairUp, List.length_cons, pairUp_length rest, List.length_cons, List.length_cons]
    omega

/-- Strip `s` is the columns `2·s` and `2·s + 1` of the path (R242). -/
theorem pairUp_get : ∀ {l : List Nat} {s right left : Nat}, l[2 * s]? = some right → l[2 * s + 1]? = some left →
    (pairUp l)[s]? = some (right, left)
  | [], _, _, _, h, _ => by simp at h
  | [_], _, _, _, _, h' => by simp at h'
  | _ :: _ :: _, 0, _, _, h, h' => by simp_all [pairUp]
  | _ :: _ :: rest, s + 1, _, _, h, h' => pairUp_get (l := rest) (s := s) h h'

@[simp] theorem stripRows_length (h i : Nat) : (stripRows h i).length = h := by
  unfold stripRows
  split <;> simp

/-- Row `i` of a strip: from the bottom in even strips, from the top in odd ones (R242). -/
theorem stripRows_get {h s i : Nat} (hi : i < h) :
    (stripRows h s)[i]? = some (if s % 2 = 0 then h - 1 - i else i) := by
  unfold stripRows
  split
  · rw [List.getElem?_reverse (by simpa using hi), List.length_range, List.getElem?_range (by omega)]
  · exact List.getElem?_range hi

@[simp] theorem stripCells_length (rows : List Nat) (right left : Nat) :
    (stripCells rows right left).length = 2 * rows.length := by
  simp [stripCells, Nat.mul_comm]

/-- In each row of a strip the right cell stands before the left cell (R242). -/
theorem stripCells_get {rows : List Nat} {right left i j r : Nat} (hr : rows[i]? = some r) (hj : j < 2) :
    (stripCells rows right left)[2 * i + j]? = some (r, if j = 0 then right else left) := by
  induction rows generalizing i with
  | nil => simp at hr
  | cons r' rows ih =>
    have hcons : stripCells (r' :: rows) right left = (r', right) :: (r', left) :: stripCells rows right left := rfl
    cases i with
    | zero =>
      obtain rfl : r' = r := by simpa using hr
      interval_cases j <;> simp [hcons]
    | succ i =>
      have hindex : 2 * (i + 1) + j = 2 * i + j + 1 + 1 := by omega
      rw [hcons, hindex]
      exact ih (by simpa using hr)

theorem strips_length (h : Nat) : ∀ (l : List (Nat × Nat)) (k : Nat), (strips h k l).length = 2 * h * l.length
  | [], _ => rfl
  | (right, left) :: l, k => by
    simp only [strips, List.length_append, stripCells_length, stripRows_length, strips_length h l, List.length_cons]
    ring

/-- Each strip takes `2·H` entries of the path (R242). -/
theorem strips_get {h : Nat} {l : List (Nat × Nat)} {k s right left i j : Nat} (hs : l[s]? = some (right, left))
    (hi : i < h) (hj : j < 2) : (strips h k l)[2 * h * s + 2 * i + j]?
      = some (if (k + s) % 2 = 0 then h - 1 - i else i, if j = 0 then right else left) := by
  induction l generalizing k s with
  | nil => simp at hs
  | cons p l ih =>
    obtain ⟨right', left'⟩ := p
    rw [strips]
    cases s with
    | zero =>
      obtain ⟨rfl, rfl⟩ : right' = right ∧ left' = left := by simpa using hs
      rw [List.getElem?_append_left (by rw [stripCells_length, stripRows_length]; omega), Nat.mul_zero, Nat.zero_add,
        stripCells_get (stripRows_get hi) hj, Nat.add_zero]
    | succ s =>
      have hindex : 2 * h * (s + 1) + 2 * i + j = 2 * h + (2 * h * s + 2 * i + j) := by ring
      rw [List.getElem?_append_right (by rw [stripCells_length, stripRows_length]; omega), stripCells_length,
        stripRows_length, hindex, Nat.add_sub_cancel_left, ih (by simpa using hs), Nat.add_assoc, Nat.add_comm 1]

/-- The strips of the path, for an even number of columns (R242). -/
theorem pathStrips_length {w t : Nat} (h : t < w) : (pairUp (pathColumns w t)).length = (w - 1) / 2 := by
  rw [pairUp_length, pathColumns_eq h, List.length_map, List.length_range]

theorem pathStrips_get {w t s : Nat} (h : t < w) (hs : s < (w - 1) / 2) :
    (pairUp (pathColumns w t))[s]? = some (specPathColumn w t (2 * s), specPathColumn w t (2 * s + 1)) := by
  have column {q : Nat} (hq : q < w - 1) : (pathColumns w t)[q]? = some (specPathColumn w t q) := by
    rw [pathColumns_eq h, List.getElem?_map, List.getElem?_range hq]
    rfl
  exact pairUp_get (column (by omega)) (column (by omega))

/-- Settles O29: the path is the strips of R242, each of them `2·H` entries. -/
theorem pathZigZags : Obligations.PathZigZags := by
  intro h w t hodd ht
  refine ⟨?_, fun s hs i hi j hj => ?_⟩
  · have heven : 2 * ((w - 1) / 2) = w - 1 := by omega
    rw [path, strips_length, pathStrips_length ht, Nat.mul_comm 2 h, Nat.mul_assoc, heven]
  · rw [path, strips_get (pathStrips_get ht hs) hi hj, Nat.zero_add]
    interval_cases j <;> rfl

/-- Every column but `t` stands in `C` of R242. -/
theorem exists_specPathColumn_eq {w t c : Nat} (ht : t < w) (hc : c < w) (hne : c ≠ t) :
    ∃ q < w - 1, specPathColumn w t q = c := by
  have hmem : c ∈ pathColumns w t := by simp [pathColumns, hc, hne]
  rw [pathColumns_eq ht, List.mem_map] at hmem
  obtain ⟨q, hq, rfl⟩ := hmem
  exact ⟨q, List.mem_range.1 hq, rfl⟩

/-- Settles O28: a cell is found at the place that O29 gives its row and its column. -/
theorem pathVisitsEachCellOnce : Obligations.PathVisitsEachCellOnce := by
  refine fun h w t hodd ht => ⟨path_nodup h w t, fun r c => ⟨mem_path, fun ⟨hr, hc, hne⟩ => ?_⟩⟩
  obtain ⟨q, hq, rfl⟩ := exists_specPathColumn_eq ht hc hne
  have hget := (pathZigZags h w t hodd ht).2 (q / 2) (by omega) (if q / 2 % 2 = 0 then h - 1 - r else r)
    (by split <;> omega) (q % 2) (by omega)
  rw [Nat.div_add_mod] at hget
  have hrow : (if q / 2 % 2 = 0 then h - 1 - (if q / 2 % 2 = 0 then h - 1 - r else r)
      else if q / 2 % 2 = 0 then h - 1 - r else r) = r := by
    split <;> omega
  rw [hrow] at hget
  exact List.mem_of_getElem? hget

/-! ### The checks of PLACE and of the mask commands -/

/-- Settles O31: the checks of `PLACE` in their order. -/
theorem placeErrorOrder : Obligations.PlaceErrorOrder := by
  intro rem s
  have timing (hc : s.cvClass ≠ .rmqr) : ∃ t, timingColumn s.cvClass = some t := by
    cases h : s.cvClass with
    | normal | micro => exact ⟨_, rfl⟩
    | rmqr => exact absurd h hc
  refine ⟨fun hc => ?_, fun hc hstate => ?_, fun hc hstate hfits => ?_⟩
  · rw [exec, execPlace, hc]
    rfl
  · obtain ⟨t, ht⟩ := timing hc
    rw [exec, execPlace, ht]
    exact if_pos hstate
  · obtain ⟨t, ht⟩ := timing hc
    rw [← inCwram_iff] at hfits
    simp only [exec, execPlace, ht, hstate, hfits]
    rfl

/-- The four mask commands end with the error of the checks they share. -/
theorem exec_of_maskStateError {s : State} {e : ErrCode} (he : maskStateError s = some e) (m : BitVec 3) :
    ∀ i ∈ [Instr.mask m, .score m, .scoreall, .maskbest], exec i s = .next (endsWith e s) := by
  have hindex : maskIndexError m s = some e := by rw [maskIndexError, he]
  simp only [List.forall_mem_cons, exec, execMask, execScore, execScoreall, execMaskbest, hindex, he]
  exact ⟨rfl, rfl, rfl, rfl, by simp⟩

/-- Settles O33: `maskStateError` and `maskIndexError` are the checks in their order. -/
theorem maskAndScoreErrorOrder : Obligations.MaskAndScoreErrorOrder := by
  refine fun m s => ⟨fun hc => ?_, fun hc hstate => ?_, fun hs hm => ?_⟩
  · exact exec_of_maskStateError (if_pos hc) m
  · refine exec_of_maskStateError ((if_neg hc).trans (if_neg ?_)) m
    rcases hstate with h | h <;> simp [h]
  · have herr : maskIndexError m s = some .range := by
      obtain ⟨hmicro, hlt⟩ := Classical.not_imp.1 hm
      rw [maskIndexError, (maskStateError_eq_none_iff s).2 hs]
      simpa [isMicro, hmicro] using hlt
    simp only [List.forall_mem_cons, exec, execMask, execScore, herr]
    exact ⟨rfl, rfl, by simp⟩

end Sys2Proof.Machine

namespace Sys2Proof.Machine

/-! ### Masking, module by module -/

/-- The predicates are R250, for an index of three bits. -/
theorem pred_iff {i r c : Nat} (hi : i < 8) : pred i r c = true ↔ specPred i r c := by
  refine ⟨specPred_of_pred, fun h => ?_⟩
  interval_cases i <;> simpa [specPred, pred] using h

theorem specIndex_lt {cls : CvClass} {m : BitVec 3} (hm : isCandidate cls m) : specIndex cls m.toNat < 8 := by
  unfold specIndex
  split
  · rename_i hc
    have h3 := hm hc
    generalize m.toNat = k at h3
    interval_cases k <;> decide
  · exact m.isLt

/-- The predicate of a candidate is that of its index in R252. -/
theorem maskPred_iff {s : State} {m : BitVec 3} (hm : isCandidate s.cvClass m) (r c : Nat) :
    maskPred (isMicro s) m.toNat r c = true ↔ specPred (specIndex s.cvClass m.toNat) r c := by
  rw [← pred_iff (specIndex_lt hm), specIndex_eq hm, maskPred]

/-- The colour that scoring takes is that of the masked module (R251, R255). -/
theorem maskedColour_eq {s : State} {m : BitVec 3} (hm : isCandidate s.cvClass m) (r c : Nat) (v : Module) :
    maskedColour (isMicro s) m.toNat r c v = (specMasked s.cvClass m.toNat r c v).dark := by
  simp only [maskedColour, specMasked, ← maskPred_iff hm]
  cases v.function <;> cases maskPred (isMicro s) m.toNat r c <;> simp

theorem mem_allCells {h w : Nat} {x : Nat × Nat} : x ∈ allCells h w ↔ x.1 < h ∧ x.2 < w := by
  obtain ⟨r, c⟩ := x
  simp [allCells]

theorem allCells_nodup (h w : Nat) : (allCells h w).Nodup :=
  List.Nodup.product List.nodup_range List.nodup_range

/-- The cells that masking looks at are those where the predicate holds (R251). -/
theorem mem_maskCells {s : State} {m : BitVec 3} (hm : isCandidate s.cvClass m) {h w : Nat} {x : Nat × Nat} :
    x ∈ maskCells (isMicro s) m.toNat h w ↔ (x.1 < h ∧ x.2 < w) ∧ specPred (specIndex s.cvClass m.toNat) x.1 x.2 := by
  rw [maskCells, List.mem_filter, mem_allCells, maskPred_iff hm]

/-- Masking toggles the data modules among the modules read, each once (R251). -/
theorem mem_toggled {canvas : List (Nat × Module)} {cells : List (Nat × Nat)} {vs : List Module}
    (hvs : readModules canvas cells = .ok vs) {y : (Nat × Nat) × Module} :
    y ∈ toggled cells vs ↔ y.1 ∈ cells ∧ ∃ v, cellRead canvas (moduleKey y.1.1 y.1.2) = some v
      ∧ v.function = false ∧ y.2 = { v with dark := !v.dark } := by
  have hread := readModules_ok hvs
  have hlen := hread.length_eq
  obtain ⟨x, v'⟩ := y
  simp only [toggled, List.mem_map, List.mem_filter, Bool.not_eq_true']
  constructor
  · rintro ⟨⟨x, v⟩, ⟨hmem, hdata⟩, ⟨⟩⟩
    exact ⟨(List.of_mem_zip hmem).1, v, (List.forall₂_iff_zip.1 hread).2 hmem, hdata, rfl⟩
  · rintro ⟨hx, v, hv, hdata, rfl⟩
    obtain ⟨j, hj, rfl⟩ := List.getElem_of_mem hx
    have hj' : j < vs.length := hlen ▸ hj
    have hmem : (cells[j], vs[j]) ∈ cells.zip vs := by
      rw [← List.getElem_zip (h := by simpa using ⟨hj, hj'⟩)]
      exact List.getElem_mem _
    have heq : vs[j] = v := Option.some.inj (((List.forall₂_iff_zip.1 hread).2 hmem).symm.trans hv)
    exact ⟨(cells[j], v), ⟨heq ▸ hmem, hdata⟩, rfl⟩

/-- The keys of the modules toggled are distinct (R85). -/
theorem toggled_keys_nodup {cells : List (Nat × Nat)} (hcells : cells.Nodup) (hcol : ∀ x ∈ cells, x.2 < 256)
    {vs : List Module} (hlen : cells.length = vs.length) :
    ((toggled cells vs).map (fun x => moduleKey x.1.1 x.1.2)).Nodup := by
  have hfst : (toggled cells vs).map Prod.fst = ((cells.zip vs).filter (fun x => !x.2.function)).map Prod.fst := by
    rw [toggled, List.map_map]
    rfl
  have hsub : ((toggled cells vs).map Prod.fst).Sublist cells := by
    rw [hfst]
    refine (List.filter_sublist.map _).trans ?_
    rw [List.map_fst_zip hlen.le]
  have hkeys := keys_nodup (hcells.sublist hsub) (fun x hx => hcol x (hsub.subset hx))
  rwa [List.map_map] at hkeys

/-- The canvas that masking leaves, module by module (R251). -/
theorem maskedCanvas_spec {s : State} {m : BitVec 3} (hm : isCandidate s.cvClass m) {cv : List (Nat × Module)}
    (hcv : maskedCanvas m.toNat s = .ok cv) :
    (∀ r < s.cvH.toNat, ∀ c < s.cvW.toNat, cellRead cv (256 * r + c)
        = (cellRead s.canvas (256 * r + c)).map (specMasked s.cvClass m.toNat r c))
      ∧ ∀ k, (∀ r < s.cvH.toNat, ∀ c < s.cvW.toNat, k ≠ 256 * r + c) → cellRead cv k = cellRead s.canvas k := by
  unfold maskedCanvas at hcv
  split at hcv
  · cases hcv
  rename_i vs hvs
  cases hcv
  have hcol : ∀ x ∈ maskCells (isMicro s) m.toNat s.cvH.toNat s.cvW.toNat, x.2 < 256 := fun x hx =>
    ((mem_maskCells hm).1 hx).1.2.trans s.cvW.isLt
  have hkeys := toggled_keys_nodup ((allCells_nodup _ _).filter _) hcol (readModules_ok hvs).length_eq
  refine ⟨fun r hr c hc => ?_, fun k hk => ?_⟩
  · by_cases htoggled : ∃ y ∈ toggled (maskCells (isMicro s) m.toNat s.cvH.toNat s.cvW.toNat) vs, y.1 = (r, c)
    · obtain ⟨⟨x, v'⟩, hy, rfl : x = (r, c)⟩ := htoggled
      obtain ⟨hx, v, hv, hdata, rfl : v' = _⟩ := (mem_toggled hvs).1 hy
      have hv : cellRead s.canvas (256 * r + c) = some v := hv
      have hmasked : specMasked s.cvClass m.toNat r c v = { v with dark := !v.dark } :=
        if_pos ⟨hdata, ((mem_maskCells hm).1 hx).2⟩
      rw [hv, Option.map_some, hmasked]
      exact cellRead_writeModules_mem s.canvas hkeys hy
    · have hother : ∀ y ∈ toggled (maskCells (isMicro s) m.toNat s.cvH.toNat s.cvW.toNat) vs,
          256 * r + c ≠ moduleKey y.1.1 y.1.2 := by
        intro y hy hkey
        have hcy := hcol _ ((mem_toggled hvs).1 hy).1
        obtain ⟨hr', hc'⟩ := moduleKey_inj (hc.trans s.cvW.isLt) hcy hkey
        exact htoggled ⟨y, hy, Prod.ext hr'.symm hc'.symm⟩
      rw [cellRead_writeModules_other _ _ _ hother]
      cases hv : cellRead s.canvas (256 * r + c) with
      | none => rfl
      | some v =>
        rw [Option.map_some, specMasked, if_neg]
        rintro ⟨hdata, hpred⟩
        exact htoggled ⟨((r, c), { v with dark := !v.dark }),
          (mem_toggled hvs).2 ⟨(mem_maskCells hm).2 ⟨⟨hr, hc⟩, hpred⟩, v, hv, hdata, rfl⟩, rfl⟩
  · refine cellRead_writeModules_other _ _ _ fun y hy => ?_
    obtain ⟨hr, hc⟩ := ((mem_maskCells hm).1 ((mem_toggled hvs).1 hy).1).1
    exact hk _ hr _ hc

/-- Masking a written canvas has no fault (R101). -/
theorem maskedCanvas_of_written {s : State} {m : BitVec 3} (hm : isCandidate s.cvClass m) (hw : canvasWritten s) :
    ∃ cv, maskedCanvas m.toNat s = .ok cv := by
  cases hcv : maskedCanvas m.toNat s with
  | ok cv => exact ⟨cv, rfl⟩
  | error f =>
    obtain ⟨r, c, -, hr, hc, -, hn⟩ := maskedCanvas_error hm hcv
    have := hw r hr c hc
    rw [hn] at this
    cases this

/-- `MASK m` leaves the masked canvas (R251). -/
theorem exec_mask_of_canvas {s : State} {m : BitVec 3} (hs : maskAllowed s) (hm : isCandidate s.cvClass m)
    {cv : List (Nat × Module)} (hcv : maskedCanvas m.toNat s = .ok cv) :
    exec (.mask m) s = .next { endsWith .none s with
      canvas := cv, masksel := { mask := m, valid := true }, cvstate := .masked } := by
  rw [exec, execMask, (maskIndexError_eq_none_iff m s).2 ⟨hs, hm⟩, hcv]
  rfl

/-- Settles O32: `maskedCanvas` is R251's canvas. -/
theorem maskTogglesDataModules : Obligations.MaskTogglesDataModules := by
  intro m s hs hm hw
  obtain ⟨cv, hcv⟩ := maskedCanvas_of_written hm hw
  exact ⟨cv, exec_mask_of_canvas hs hm hcv, maskedCanvas_spec hm hcv⟩

/-- Settles O38: the selected index is a candidate, and both commands mask the same canvas. -/
theorem maskbestScoresThenMasks : Obligations.MaskbestScoresThenMasks := by
  intro s hs hw
  obtain ⟨l, hl⟩ := candidateScores_of_written hs hw (candidates (isMicro s))
  obtain ⟨hm, hindex⟩ := selectBest_candidate hl
  obtain ⟨cv, hcv⟩ := maskedCanvas_of_written hm hw
  refine ⟨_, _, exec_scoreall_of_scores hs hl, exec_mask_of_canvas hs hm hcv, ?_⟩
  rw [hindex] at hcv
  rw [exec, execMaskbest, (maskStateError_eq_none_iff s).2 hs, hl, orFault_ok, hcv]
  rfl

end Sys2Proof.Machine

namespace Sys2Proof.Machine

/-! ### The colours that scoring takes -/

theorem isMicro_of_normal {s : State} (hc : s.cvClass = .normal) : isMicro s = false := by simp [isMicro, hc]

theorem isMicro_of_micro {s : State} (hc : s.cvClass = .micro) : isMicro s = true := by simp [isMicro, hc]

/-- On a Normal canvas every index is a candidate (R263). -/
theorem isCandidate_of_normal {cls : CvClass} (hc : cls = .normal) (m : BitVec 3) : isCandidate cls m := by
  simp [isCandidate, hc]

/-- The colour taken from a module read is R255's. -/
theorem maskedColour_of_read {s : State} {m : BitVec 3} (hm : isCandidate s.cvClass m) {r c : Nat} {v : Module}
    (hv : cellRead s.canvas (moduleKey r c) = some v) :
    maskedColour (isMicro s) m.toNat r c v = specColour s m.toNat r c := by
  have hv : cellRead s.canvas (256 * r + c) = some v := hv
  rw [maskedColour_eq hm, specColour, hv]

/-- The first `n` colours of a line. -/
def lineOf (line : Nat → Bool) (n : Nat) : List Bool := (List.range n).map line

/-- The rows of a colour function, `h` rows of `w` modules (R255). -/
def colourRows (h w : Nat) (col : Nat → Nat → Bool) : List (List Bool) := (List.range h).map fun r => lineOf (col r) w

@[simp] theorem lineOf_length (line : Nat → Bool) (n : Nat) : (lineOf line n).length = n := by simp [lineOf]

@[simp] theorem colourRows_length (h w : Nat) (col : Nat → Nat → Bool) : (colourRows h w col).length = h := by
  simp [colourRows]

theorem length_of_mem_colourRows {h w : Nat} {col : Nat → Nat → Bool} : ∀ row ∈ colourRows h w col, row.length = w := by
  intro row hrow
  obtain ⟨r, -, rfl⟩ := List.mem_map.1 hrow
  exact lineOf_length _ _

/-- What reading rows answers: as many rows as asked for, each that of the canvas. -/
theorem readRows_ok {canvas : List (Nat × Module)} {w r n : Nat} {grid : List (List Module)}
    (h : readRows canvas w r n = .ok grid) : grid.length = n
      ∧ ∀ i (hi : i < grid.length), readModules canvas ((List.range w).map (fun c => (r + i, c))) = .ok grid[i] := by
  induction n generalizing r grid with
  | zero => cases h; exact ⟨rfl, fun i hi => absurd hi (Nat.not_lt_zero i)⟩
  | succ n ih =>
    unfold readRows at h
    split at h
    · cases h
    · rename_i row hrow
      split at h
      · cases h
      · rename_i rows hrows
        cases h
        obtain ⟨hlen, hget⟩ := ih hrows
        refine ⟨congrArg (· + 1) hlen, fun i hi => ?_⟩
        cases i with
        | zero => exact hrow
        | succ i =>
          have := hget i (Nat.lt_of_succ_lt_succ hi)
          rwa [Nat.add_assoc, Nat.add_comm 1] at this

/-- The module read at row `r`, column `c` of the grid is that of the canvas (R61). -/
theorem readRows_get {canvas : List (Nat × Module)} {h w : Nat} {grid : List (List Module)}
    (hgrid : readRows canvas w 0 h = .ok grid) {r : Nat} (hr : r < grid.length) : grid[r].length = w
      ∧ ∀ c (hc : c < grid[r].length), cellRead canvas (moduleKey r c) = some grid[r][c] := by
  have hrow := (readRows_ok hgrid).2 r hr
  rw [Nat.zero_add] at hrow
  have hmodules := readModules_ok hrow
  have hlen : w = grid[r].length := by simpa using hmodules.length_eq
  refine ⟨hlen.symm, fun c hc => ?_⟩
  have hread := hmodules.get (i := c) (by simpa using hlen ▸ hc) hc
  simpa using hread

/-- The colours of the grid read from a Normal canvas are R255's. -/
theorem colourGrid_of_read {s : State} {m : BitVec 3} (hc : s.cvClass = .normal) {h w : Nat}
    {grid : List (List Module)} (hgrid : readRows s.canvas w 0 h = .ok grid) :
    colourGrid m.toNat grid = colourRows h w (specColour s m.toNat) := by
  have hm := isCandidate_of_normal hc m
  have hmicro := isMicro_of_normal hc
  have hrows : (colourGrid m.toNat grid).length = grid.length := by simp [colourGrid]
  refine List.ext_getElem (by rw [hrows, (readRows_ok hgrid).1, colourRows_length]) fun r hr _ => ?_
  obtain ⟨hlen, hget⟩ := readRows_get hgrid (hrows ▸ hr)
  refine List.ext_getElem (by simp [colourGrid, colourRows, hlen]) fun c hcol _ => ?_
  have hcolour := maskedColour_of_read hm (hget c (by simpa [colourGrid] using hcol))
  rw [hmicro] at hcolour
  simpa [colourGrid, colourRows, lineOf] using hcolour

/-! ### The runs of a line (R256) -/

/-- What the runs that start at `a` add to P1 (R256). -/
def runsAt (line : Nat → Bool) (n a : Nat) : Nat :=
  ∑ b ∈ Finset.range (n + 1), if maximalRun line n a b ∧ a + 5 ≤ b then b - a - 2 else 0

theorem specRuns_eq (line : Nat → Bool) (n : Nat) : specRuns line n = ∑ a ∈ Finset.range n, runsAt line n a := rfl

/-- No two maximal runs share a module (R256). -/
theorem maximalRun_unique {line : Nat → Bool} {n a b x y : Nat} (h : maximalRun line n a b)
    (h' : maximalRun line n x y) (hax : a ≤ x) (hxb : x < b) : x = a ∧ y = b := by
  obtain ⟨-, hbn, hsame, -, hend⟩ := h
  obtain ⟨hxy, hyn, hsame', hstart', hend'⟩ := h'
  obtain rfl : x = a := by
    by_contra hne
    have hprev : line (x - 1) = line x := (hsame _ (by omega) (by omega)).trans (hsame x hxb hax).symm
    exact hstart'.elim (by omega) (fun hdiff => hdiff hprev)
  refine ⟨rfl, ?_⟩
  obtain hlt | heq | hgt := lt_trichotomy y b
  · exact absurd (hsame y hlt hxy.le) (hend'.resolve_left (by omega))
  · exact heq
  · exact absurd (hsame' b hgt hxb.le) (hend.resolve_left (by omega))

/-- Among the positions of a maximal run, only its first one starts a run (R256). -/
theorem sum_runsAt_of_maximalRun {line : Nat → Bool} {n a b : Nat} (h : maximalRun line n a b) :
    ∑ x ∈ Finset.Ico a b, runsAt line n x = if 5 ≤ b - a then 3 + (b - a - 5) else 0 := by
  have ⟨hab, hbn, _⟩ := h
  have inside {x y : Nat} (hx : x ∈ Finset.Ico a b) (hxy : maximalRun line n x y) : x = a ∧ y = b :=
    maximalRun_unique h hxy (Finset.mem_Ico.1 hx).1 (Finset.mem_Ico.1 hx).2
  have ha : a ∈ Finset.Ico a b := Finset.mem_Ico.2 ⟨le_rfl, hab⟩
  rw [Finset.sum_eq_single_of_mem a ha, runsAt, Finset.sum_eq_single_of_mem b (by simp; omega)]
  · by_cases h5 : a + 5 ≤ b
    · rw [if_pos ⟨h, h5⟩, if_pos (by omega)]
      omega
    · rw [if_neg (fun hrun => h5 hrun.2), if_neg (by omega)]
  · exact fun y _ hne => if_neg fun hrun => hne (inside ha hrun.1).2
  · exact fun x hx hne => Finset.sum_eq_zero fun y _ => if_neg fun hrun => hne (inside hx hrun.1).1

/-- The runs of a line from position `i` on, in a run that goes on from `a` (R256). -/
theorem runsFrom_penalty {line : Nat → Bool} {n a i k : Nat} (hai : a < i) (hik : i + k = n)
    (hstart : a = 0 ∨ line (a - 1) ≠ line a) (hsame : ∀ j < i, a ≤ j → line j = line a) :
    ((runsFrom (line a) (i - a) ((List.range' i k).map line)).map (fun n => if 5 ≤ n then 3 + (n - 5) else 0)).sum
      = ∑ x ∈ Finset.Ico a n, runsAt line n x := by
  induction k generalizing a i with
  | zero =>
    obtain rfl : i = n := hik
    rw [sum_runsAt_of_maximalRun ⟨hai, le_rfl, hsame, hstart, .inl rfl⟩]
    simp [runsFrom]
  | succ k ih =>
    rw [List.range'_succ, List.map_cons, runsFrom]
    split
    · rename_i hline
      have hnext : i - a + 1 = i + 1 - a := by omega
      rw [hnext]
      refine ih (by omega) (by omega) hstart fun j hj haj => ?_
      obtain hlt | rfl := Nat.lt_succ_iff_lt_or_eq.1 hj
      · exact hsame j hlt haj
      · exact hline
    · rename_i hline
      have hprev : line (i - 1) ≠ line i := by
        rw [hsame (i - 1) (by omega) (by omega)]
        exact Ne.symm hline
      have hsingle : ∀ j < i + 1, i ≤ j → line j = line i := fun j hj hij => by
        rw [show j = i by omega]
      have hrest := ih (Nat.lt_succ_self i) (by omega) (.inr hprev) hsingle
      rw [Nat.succ_eq_add_one, Nat.add_sub_cancel_left] at hrest
      rw [List.map_cons, List.sum_cons, hrest, ← Finset.sum_Ico_consecutive _ hai.le (by omega : i ≤ n),
        sum_runsAt_of_maximalRun ⟨hai, by omega, hsame, hstart, .inr hline⟩]

/-- A line's part of P1 (R256). -/
theorem runPenalty_lineOf (line : Nat → Bool) (n : Nat) : runPenalty (lineOf line n) = specRuns line n := by
  cases n with
  | zero => rfl
  | succ k =>
    have hline : lineOf line (k + 1) = line 0 :: (List.range' 1 k).map line := by
      rw [lineOf, List.range_eq_range', List.range'_succ, List.map_cons]
    have hsame : ∀ j < 1, 0 ≤ j → line j = line 0 := fun j hj _ => by rw [Nat.lt_one_iff.1 hj]
    rw [specRuns_eq, Finset.range_eq_Ico, ← runsFrom_penalty Nat.one_pos (Nat.add_comm 1 k) (.inl rfl) hsame, hline]
    rfl

/-! ### The finder-like windows of a line (R258) -/

theorem finderCount_eq_sum (l : List Bool) : finderCount l = ∑ p ∈ Finset.range l.length,
    if (l.drop p).take 11 = finderA ∨ (l.drop p).take 11 = finderB then 1 else 0 := by
  induction l with
  | nil => rfl
  | cons x xs ih =>
    rw [finderCount, ih, List.length_cons, Finset.sum_range_succ', Nat.add_comm]
    rfl

/-- A window of a line that does not reach past its end (R258). -/
theorem take_drop_lineOf {line : Nat → Bool} {n p : Nat} (hp : p + 11 ≤ n) :
    ((lineOf line n).drop p).take 11 = window11 line p := by
  refine List.ext_getElem (by simp [window11]; omega) fun i _ _ => ?_
  simp [lineOf, window11]

/-- The windows that fit in a line are the ones of 11 modules (R258). -/
theorem window_eq_iff {line : Nat → Bool} {n p : Nat} {pattern : List Bool} (hpattern : pattern.length = 11) :
    ((lineOf line n).drop p).take 11 = pattern ↔ p + 11 ≤ n ∧ window11 line p = pattern := by
  by_cases hp : p + 11 ≤ n
  · rw [take_drop_lineOf hp, and_iff_right hp]
  · refine ⟨fun h => ?_, fun h => absurd h.1 hp⟩
    have hlen := congrArg List.length h
    rw [hpattern, List.length_take, List.length_drop, lineOf_length] at hlen
    omega

/-- A line's part of P3 (R258). -/
theorem finderCount_lineOf (line : Nat → Bool) (n : Nat) : finderCount (lineOf line n) = specFinders line n := by
  rw [finderCount_eq_sum, specFinders, Finset.card_filter, lineOf_length]
  refine Finset.sum_congr rfl fun p _ => if_congr ?_ rfl rfl
  rw [window_eq_iff rfl, window_eq_iff rfl, ← and_or_left]
  rfl

/-! ### The penalty rules over a colour function -/

theorem sum_map_range (f : Nat → Nat) (n : Nat) : ((List.range n).map f).sum = ∑ i ∈ Finset.range n, f i := rfl

/-- The columns of the rows of a colour function (R256). -/
theorem gridColumns_colourRows (h w : Nat) (col : Nat → Nat → Bool) :
    gridColumns w (colourRows h w col) = (List.range w).map fun c => lineOf (fun r => col r c) h := by
  refine List.map_congr_left fun c hc => ?_
  rw [colourRows, List.map_map]
  refine List.map_congr_left fun r _ => ?_
  simp [lineOf, List.mem_range.1 hc]

/-- A sum over the lines of a grid is one over its rows and one over its columns (R256). -/
theorem sum_gridLines (f : List Bool → Nat) (h w : Nat) (col : Nat → Nat → Bool) :
    ((gridLines w (colourRows h w col)).map f).sum = (∑ r ∈ Finset.range h, f (lineOf (col r) w))
      + ∑ c ∈ Finset.range w, f (lineOf (fun r => col r c) h) := by
  rw [gridLines, gridColumns_colourRows, List.map_append, List.sum_append, colourRows, List.map_map, List.map_map,
    sum_map_range, sum_map_range]
  rfl

theorem penalty1_colourRows (h w : Nat) (col : Nat → Nat → Bool) :
    penalty1 (gridLines w (colourRows h w col)) = specP1 h w col := by
  rw [penalty1, sum_gridLines]
  simp only [runPenalty_lineOf]
  rfl

theorem penalty3_colourRows (h w : Nat) (col : Nat → Nat → Bool) :
    penalty3 (gridLines w (colourRows h w col)) = specP3 h w col := by
  rw [penalty3, sum_gridLines]
  simp only [finderCount_lineOf]
  rfl

theorem lineOf_succ (line : Nat → Bool) (n : Nat) :
    lineOf line (n + 1) = line 0 :: lineOf (fun i => line (i + 1)) n := by
  rw [lineOf, List.range_succ_eq_map, List.map_cons, List.map_map]
  rfl

/-- The windows of one colour between two rows (R257). -/
theorem blocksBetween_lineOf (f g : Nat → Bool) (w : Nat) : blocksBetween (lineOf f w) (lineOf g w)
    = ∑ c ∈ Finset.range w, if c + 1 < w ∧ f c = g c ∧ f c = f (c + 1) ∧ f c = g (c + 1) then 1 else 0 := by
  induction w generalizing f g with
  | zero => rfl
  | succ w ih =>
    cases w with
    | zero => simp [lineOf, blocksBetween]
    | succ w =>
      have hrest := ih (fun c => f (c + 1)) (fun c => g (c + 1))
      rw [lineOf_succ, lineOf_succ] at hrest
      rw [lineOf_succ, lineOf_succ, lineOf_succ, lineOf_succ, blocksBetween, hrest,
        Finset.sum_range_succ' _ (w + 1), Nat.add_comm]
      simp

theorem colourRows_succ (h w : Nat) (col : Nat → Nat → Bool) :
    colourRows (h + 1) w col = lineOf (col 0) w :: colourRows h w (fun r => col (r + 1)) := by
  rw [colourRows, List.range_succ_eq_map, List.map_cons, List.map_map]
  rfl

/-- The windows of one colour of a grid, by the upper of their two rows (R257). -/
theorem blockCount2_colourRows (h w : Nat) (col : Nat → Nat → Bool) : blockCount2 (colourRows h w col)
    = ∑ r ∈ Finset.range h, if r + 1 < h then blocksBetween (lineOf (col r) w) (lineOf (col (r + 1)) w) else 0 := by
  induction h generalizing col with
  | zero => rfl
  | succ h ih =>
    cases h with
    | zero => simp [colourRows, blockCount2]
    | succ h =>
      have hrest := ih (fun r => col (r + 1))
      rw [colourRows_succ] at hrest
      rw [colourRows_succ, colourRows_succ, blockCount2, hrest, Finset.sum_range_succ' _ (h + 1), Nat.add_comm]
      simp

theorem penalty2_colourRows (h w : Nat) (col : Nat → Nat → Bool) : penalty2 (colourRows h w col) = specP2 h w col := by
  rw [penalty2, specP2, blockCount2_colourRows, Finset.card_filter, Finset.sum_product]
  refine congrArg (3 * ·) (Finset.sum_congr rfl fun r _ => ?_)
  rw [blocksBetween_lineOf]
  split
  · rename_i hr
    exact Finset.sum_congr rfl fun c _ => if_congr (by simp [hr]) rfl rfl
  · rename_i hr
    exact (Finset.sum_eq_zero fun c _ => if_neg fun h => hr h.1).symm

theorem countP_range (p : Nat → Bool) (n : Nat) :
    (List.range n).countP p = ((Finset.range n).filter (fun i => p i = true)).card := by
  have hfilter : (Finset.range n).filter (fun i => p i = true) = ((List.range n).filter p).toFinset := by
    ext i
    simp
  rw [hfilter, List.toFinset_card_of_nodup (List.nodup_range.filter _), List.countP_eq_length_filter]

/-- `Dk` of R259. -/
theorem darkCount_colourRows (h w : Nat) (col : Nat → Nat → Bool) :
    darkCount (colourRows h w col) = specDark h w col := by
  rw [darkCount, colourRows, List.map_map, sum_map_range, specDark, Finset.card_filter, Finset.sum_product]
  refine Finset.sum_congr rfl fun r _ => ?_
  rw [← Finset.card_filter, ← countP_range, Function.comp_apply, List.count_eq_countP, lineOf, List.countP_map]
  exact List.countP_congr fun c _ => by simp

/-- On a canvas with modules the penalty is R260's. -/
theorem penalty_colourRows {h w : Nat} (hh : 1 ≤ h) (hw : 1 ≤ w) (col : Nat → Nat → Bool) :
    penalty h w (colourRows h w col) = specPenalty h w col := by
  have hmodules : h * w ≠ 0 := (Nat.mul_pos hh hw).ne'
  rw [penalty, penalty1_colourRows, penalty2_colourRows, penalty3_colourRows, darkCount_colourRows, penalty4,
    if_neg hmodules]
  rfl

/-! ### The sums of the Micro score (R261) -/

/-- The dark modules summed are those of R255's colours. -/
theorem darkSum_ok {s : State} {m : BitVec 3} (hc : s.cvClass = .micro) (hm : isCandidate s.cvClass m)
    {cells : List (Nat × Nat)} {k : Nat} (h : darkSum s.canvas m.toNat cells = .ok k) :
    k = cells.countP (fun x => specColour s m.toNat x.1 x.2) := by
  have hmicro := isMicro_of_micro hc
  unfold darkSum at h
  split at h
  · cases h
  rename_i vs hvs
  cases h
  have hread := readModules_ok hvs
  clear hvs
  induction hread with
  | nil => rfl
  | @cons x v cells vs hv _ ih =>
    have hcolour := maskedColour_of_read hm hv
    rw [hmicro] at hcolour
    rw [List.countP_cons, ← ih, darkAt, List.zip_cons_cons, List.countP_cons, hcolour]
    rfl

/-- Counting from the second place on (R261). -/
theorem countP_from_one (p : Nat → Bool) (n : Nat) : (List.range (n - 1)).countP (fun i => p (i + 1))
    = ((Finset.range n).filter (fun i => 1 ≤ i ∧ p i = true)).card := by
  cases n with
  | zero => rfl
  | succ n =>
    rw [Nat.add_sub_cancel, countP_range, Finset.card_filter, Finset.card_filter, Finset.sum_range_succ']
    simp

/-- Summing the dark modules of a line of cells without its first one (R261). -/
theorem darkSum_from_one {s : State} {m : BitVec 3} (hc : s.cvClass = .micro) (hm : isCandidate s.cvClass m)
    {cell : Nat → Nat × Nat} {n k : Nat}
    (h : darkSum s.canvas m.toNat ((List.range (n - 1)).map (fun i => cell (i + 1))) = .ok k) : k ≤ n - 1 ∧
      k = ((Finset.range n).filter (fun i => 1 ≤ i ∧ specColour s m.toNat (cell i).1 (cell i).2 = true)).card := by
  have hcount := darkSum_ok hc hm h
  rw [List.countP_map] at hcount
  refine ⟨?_, hcount.trans (countP_from_one (fun i => specColour s m.toNat (cell i).1 (cell i).2) n)⟩
  rw [hcount]
  exact List.countP_le_length.trans_eq List.length_range

/-- `sum1`, at most its number of terms, is R261's where the canvas has a rightmost column. -/
theorem microSum1_ok {s : State} {m : BitVec 3} (hc : s.cvClass = .micro) (hm : isCandidate s.cvClass m) {h w k : Nat}
    (hk : microSum1 s.canvas h w m.toNat = .ok k) : k ≤ h - 1 ∧
      (1 ≤ w → k = ((Finset.range h).filter (fun r => 1 ≤ r ∧ specColour s m.toNat r (w - 1) = true)).card) := by
  unfold microSum1 at hk
  split at hk
  · rename_i hempty
    cases hk
    have := Nat.mod_lt (Config.emptySum h w) (show h > 0 by omega)
    exact ⟨by omega, fun hw => by omega⟩
  · obtain ⟨hle, hsum⟩ := darkSum_from_one hc hm (cell := fun r => (r, w - 1)) hk
    exact ⟨hle, fun _ => hsum⟩

/-- `sum2`, at most its number of terms, is R261's where the canvas has a bottom row. -/
theorem microSum2_ok {s : State} {m : BitVec 3} (hc : s.cvClass = .micro) (hm : isCandidate s.cvClass m) {h w k : Nat}
    (hk : microSum2 s.canvas h w m.toNat = .ok k) : k ≤ w - 1 ∧
      (1 ≤ h → k = ((Finset.range w).filter (fun c => 1 ≤ c ∧ specColour s m.toNat (h - 1) c = true)).card) := by
  unfold microSum2 at hk
  split at hk
  · rename_i hempty
    cases hk
    have := Nat.mod_lt (Config.emptySum h w) (show w > 0 by omega)
    exact ⟨by omega, fun hh => by omega⟩
  · obtain ⟨hle, hsum⟩ := darkSum_from_one hc hm (cell := fun c => (h - 1, c)) hk
    exact ⟨hle, fun _ => hsum⟩

/-- The Micro score: R261's on a canvas with modules, and within R268's bound on every canvas. -/
theorem microScore_ok {s : State} {m : BitVec 3} (hc : s.cvClass = .micro) (hm : isCandidate s.cvClass m) {h w : Nat}
    {v : Word} (hv : microScore s.canvas h w m.toNat = .ok v) : ∃ p, v = BitVec.ofNat 32 p
      ∧ (1 ≤ h → 1 ≤ w → p = specMicro h w (specColour s m.toNat)) ∧ p ≤ (h - 1) + 16 * (w - 1) := by
  unfold microScore at hv
  split at hv
  · cases hv
  rename_i sum1 h1
  split at hv
  · cases hv
  rename_i sum2 h2
  cases hv
  obtain ⟨hle1, heq1⟩ := microSum1_ok hc hm h1
  obtain ⟨hle2, heq2⟩ := microSum2_ok hc hm h2
  refine ⟨_, rfl, fun hh hw => ?_, by omega⟩
  rw [heq1 hw, heq2 hh, specMicro]

/-! ### SCORE -/

/-- `s` after `SCORE m` has found the score `p` (R262). -/
def scored (m : BitVec 3) (p : Nat) (s : State) : State :=
  { endsWith .none s with
    scores := s.scores.set m.toNat (BitVec.ofNat 32 p) m.isLt, result := BitVec.ofNat 32 p }

@[simp] theorem scored_result (m : BitVec 3) (p : Nat) (s : State) : (scored m p s).result = BitVec.ofNat 32 p := rfl

/-- `RESULT` and the score register hold one value (R262). -/
theorem scored_scores (m : BitVec 3) (p : Nat) (s : State) :
    (scored m p s).scores[m.toNat]'m.isLt = (scored m p s).result :=
  Vector.getElem_set_self m.isLt

/-- `SCORE` on a Normal canvas finds the penalty (R260). -/
theorem exec_score_normal (m : BitVec 3) {s : State} (hc : s.cvClass = .normal) (hs : maskAllowed s)
    (hw : canvasWritten s) : exec (.score m) s = .next (scored m
      (penalty s.cvH.toNat s.cvW.toNat (colourRows s.cvH.toNat s.cvW.toNat (specColour s m.toNat))) s) := by
  have hm := isCandidate_of_normal hc m
  have hmicro := isMicro_of_normal hc
  obtain ⟨l, hl⟩ := candidateScores_of_written hs hw [m.toNat]
  have hscores := hl
  unfold candidateScores at hl
  rw [hmicro, if_neg Bool.false_ne_true] at hl
  split at hl
  · cases hl
  rename_i grid hgrid
  cases hl
  rw [List.map_singleton, normalScore, colourGrid_of_read hc hgrid] at hscores
  exact exec_score_of_scores hs hm hscores

/-- `SCORE` on a Micro canvas finds the Micro score (R261). -/
theorem exec_score_micro {m : BitVec 3} {s : State} (hc : s.cvClass = .micro) (hs : maskAllowed s)
    (hm : isCandidate s.cvClass m) (hw : canvasWritten s) : ∃ p, exec (.score m) s = .next (scored m p s)
      ∧ (1 ≤ s.cvH.toNat → 1 ≤ s.cvW.toNat → p = specMicro s.cvH.toNat s.cvW.toNat (specColour s m.toNat))
      ∧ p ≤ (s.cvH.toNat - 1) + 16 * (s.cvW.toNat - 1) := by
  have hmicro := isMicro_of_micro hc
  obtain ⟨l, hl⟩ := candidateScores_of_written hs hw [m.toNat]
  have hscores := hl
  rw [candidateScores, if_pos hmicro] at hl
  cases microScores_ok hl with
  | @cons _ v _ _ hv hnil =>
    cases hnil
    obtain ⟨p, rfl, hspec, hbound⟩ := microScore_ok hc hm hv
    exact ⟨p, exec_score_of_scores hs hm hscores, hspec, hbound⟩

/-- Settles O34: the rows scored are those of R255's colours, and the penalty of such rows is R260's. -/
theorem scoreGivesPenalty : Obligations.ScoreGivesPenalty := by
  intro m s hc hs hw hh hwidth
  rw [exec_score_normal m hc hs hw, penalty_colourRows hh hwidth]
  rfl

/-- Settles O35: the score found is R261's. -/
theorem scoreGivesMicroScore : Obligations.ScoreGivesMicroScore := by
  intro m s hc hs hm hw hh hwidth
  obtain ⟨p, hexec, hspec, -⟩ := exec_score_micro hc hs hm hw
  rw [hexec, hspec hh hwidth]
  rfl

/-- Settles O36: `penalty_lt` bounds the penalty, and `microScore_ok` the Micro score. -/
theorem scoresDoNotWrap : Obligations.ScoresDoNotWrap := by
  refine fun m s hs hm hw => ⟨fun hc hh hwidth => ?_, fun hc hh hwidth => ?_⟩
  · have hlt := penalty_lt _ _ (colourRows s.cvH.toNat s.cvW.toNat (specColour s m.toNat)) hh hwidth
      (colourRows_length _ _ _) length_of_mem_colourRows
    refine ⟨_, exec_score_normal m hc hs hw, scored_scores _ _ _, ?_⟩
    rw [scored_result, BitVec.toNat_ofNat, Nat.mod_eq_of_lt (by omega)]
    exact ⟨fun h1 h2 => penalty_colourRows h1 h2 _, hlt⟩
  · obtain ⟨p, hexec, hspec, hbound⟩ := exec_score_micro hc hs hm hw
    refine ⟨_, hexec, scored_scores _ _ _, ?_⟩
    rw [scored_result, BitVec.toNat_ofNat, Nat.mod_eq_of_lt (by omega)]
    exact ⟨hspec, by omega⟩

end Sys2Proof.Machine

namespace Sys2Proof.Machine

/-! ### The remainder of R290 -/

theorem bitLength_le_iff (v k : Nat) : bitLength v ≤ k ↔ v < 2 ^ k := by
  unfold bitLength
  split_ifs with hv
  · simp [hv]
  · rw [Nat.succ_le_iff, Nat.log2_lt hv]

theorem bitLength_eq_size (v : Nat) : bitLength v = Nat.size v :=
  eq_of_forall_ge_iff fun k => (bitLength_le_iff v k).trans Nat.size_le.symm

/-- Numbers of one length have their highest bit in common, which the exclusive-or clears. -/
theorem bitLength_xor_lt {v w n : Nat} (hv : bitLength v = n + 1) (hw : bitLength w = n + 1) :
    bitLength (v ^^^ w) < n + 1 := by
  have htop {u : Nat} (hu : bitLength u = n + 1) : u / 2 ^ n = 1 := by
    have hlow := bitLength_le_iff u n
    have hhigh := bitLength_le_iff u (n + 1)
    rw [Nat.pow_succ] at hhigh
    rw [Nat.div_eq_iff (by positivity)]
    omega
  rw [Nat.lt_succ_iff, bitLength_le_iff, ← Nat.div_eq_zero_iff_lt (by positivity), Nat.xor_div_two_pow, htop hv,
    htop hw, Nat.xor_self]

theorem bitLength_shiftLeft {g : Nat} (hg : g ≠ 0) (k : Nat) : bitLength (g <<< k) = bitLength g + k := by
  rw [bitLength_eq_size, bitLength_eq_size, Nat.size_shiftLeft hg]

theorem bitLength_pos {g : Nat} (hg : g ≠ 0) : 0 < bitLength g :=
  bitLength_eq_size g ▸ Nat.size_pos.2 (Nat.pos_of_ne_zero hg)

/-- Each round takes off a multiple of the generator. -/
theorem bchLoop_xor (g fuel v : Nat) : ∃ q, clMul q g ^^^ bchLoop g fuel v = v := by
  induction fuel generalizing v with
  | zero => exact ⟨0, by rw [clMul_zero_left, Nat.zero_xor, bchLoop]⟩
  | succ fuel ih =>
    rw [bchLoop]
    split_ifs
    · obtain ⟨q, hq⟩ := ih (v ^^^ g <<< (bitLength v - bitLength g))
      refine ⟨q ^^^ 1 <<< (bitLength v - bitLength g), ?_⟩
      rw [clMul_xor_left, clMul_shiftLeft_left, clMul_one_left, Nat.xor_right_comm, hq, Nat.xor_xor_cancel_right]
    · exact ⟨0, by rw [clMul_zero_left, Nat.zero_xor]⟩

/-- With a round for each bit of `v`, the loop ends below the generator's degree. -/
theorem bchLoop_bitLength_lt {g : Nat} (hg : g ≠ 0) {fuel v : Nat} (hv : bitLength v ≤ fuel) :
    bitLength (bchLoop g fuel v) < bitLength g := by
  have hgpos := bitLength_pos hg
  induction fuel generalizing v with
  | zero => rw [bchLoop]; omega
  | succ fuel ih =>
    rw [bchLoop]
    split_ifs with hlong
    · obtain ⟨n, hn⟩ : ∃ n, bitLength v = n + 1 := ⟨bitLength v - 1, by omega⟩
      have hlen : bitLength (g <<< (bitLength v - bitLength g)) = n + 1 := by
        rw [bitLength_shiftLeft hg]
        omega
      have hshorter := bitLength_xor_lt hn hlen
      exact ih (by omega)
    · omega

/-- The word `n` above `bchrem(n · x^k, g)`, `k` the degree of `g` (R290): the appended bits are the remainder. -/
theorem bchRem_word {g k : Nat} (hg : bitLength g = k + 1) (n : Nat) : ∃ q rem, rem < 2 ^ k
    ∧ clMul q g ^^^ rem = n * 2 ^ k ∧ (n <<< k ||| bchRem (n <<< k) g) = n * 2 ^ k + rem := by
  have hne : g ≠ 0 := by
    rintro rfl
    exact absurd hg (by simp [bitLength])
  have hlt : bchRem (n <<< k) g < 2 ^ k :=
    (bitLength_le_iff _ k).1 (Nat.le_of_lt_succ ((bchLoop_bitLength_lt hne le_rfl).trans_eq hg))
  obtain ⟨q, hq⟩ := bchLoop_xor g (bitLength (n <<< k)) (n <<< k)
  exact ⟨q, bchRem (n <<< k) g, hlt, by rw [bchRem, hq, Nat.shiftLeft_eq],
    by rw [← Nat.shiftLeft_add_eq_or_of_lt hlt, Nat.shiftLeft_eq]⟩

/-! ### FMTENC, VERENC -/

/-- A valid symbol that is not rMQR has the mask of R291. -/
theorem formatMask_of_ne_rmqr {s : State} (hsym : symOk s) (hclass : s.symClass ≠ 2#2) :
    formatMask s.symClass = some (if s.symClass = 0#2 then 0x5412 else 0x4445) := by
  obtain ⟨h, -, -⟩ | ⟨h, -, -⟩ | h := hsym
  · simp [formatMask, h]
  · simp [formatMask, h]
  · exact absurd h hclass

/-- `FMTENC` in the terms of R44 and R291. -/
theorem exec_fmtenc (seed : BitVec 5) (s : State) : exec (.fmtenc seed) s =
    if ¬symOk s then .next (endsWith .invalidVersion s)
    else if s.symClass = 2#2 then .next (endsWith .unsupported s)
    else .next { endsWith .none s with
      result := BitVec.ofNat 32 (fmtWord seed.toNat (if s.symClass = 0#2 then 0x5412 else 0x4445)) } := by
  simp only [exec, execFmtenc, Bool.not_eq_true', ← Bool.not_eq_true, symValid_iff]
  by_cases hsym : symOk s
  · rw [if_neg (not_not.2 hsym), if_neg (not_not.2 hsym)]
    by_cases hclass : s.symClass = 2#2
    · rw [if_pos hclass, hclass]
      rfl
    · rw [if_neg hclass, formatMask_of_ne_rmqr hsym hclass]
      rfl
  · rw [if_pos hsym, if_pos hsym]
    rfl

/-- Settles O39: `exec_fmtenc` gives the checks in their order, and `bchRem_word` the word under the mask. -/
theorem fmtencGivesFormatWord : Obligations.FmtencGivesFormatWord := by
  refine ⟨fun seed => ?_, fun seed s => ⟨fun hsym => ?_, fun hclass => ?_, fun hsym hclass => ?_⟩⟩
  · have hword : 0x2000000#27 ++ seed = 0x40#8 ++ (0#19 ++ seed) := BitVec.append_assoc (x₁ := 0x40#8) (x₂ := 0#19)
    exact hword ▸ decodeOfEncode (.fmtenc seed) rfl
  · rw [exec_fmtenc, if_pos hsym]
  · have hsym : symOk s := .inr (.inr hclass)
    rw [exec_fmtenc, if_neg (not_not.2 hsym), if_pos hclass]
  · obtain ⟨q, rem, hlt, hrem, hword⟩ := bchRem_word (g := 0x537) (k := 10) rfl seed.toNat
    refine ⟨q, rem, hlt, hrem, ?_⟩
    rw [exec_fmtenc, if_neg (not_not.2 hsym), if_neg hclass, fmtWord, hword]

/-- Settles O40: `VERENC` has one outcome, and `bchRem_word` gives its word. -/
theorem verencGivesVersionWord : Obligations.VerencGivesVersionWord := by
  refine ⟨fun v => ?_, fun v s => ?_⟩
  · have hword : 0x1040000#26 ++ v = 0x41#8 ++ (0#18 ++ v) := BitVec.append_assoc (x₁ := 0x41#8) (x₂ := 0#18)
    exact hword ▸ decodeOfEncode (.verenc v) rfl
  · obtain ⟨q, rem, hlt, hrem, hword⟩ := bchRem_word (g := 0x1F25) (k := 12) rfl v.toNat
    refine ⟨q, rem, hlt, hrem, ?_⟩
    rw [exec, execVerenc, verWord, hword]
    rfl

end Sys2Proof.Machine

namespace Sys2Proof.Machine

/-! ### NOP -/

/-- Settles O9: `NOP` has one outcome, `complete` (R310), which writes the completion fields and no other. -/
theorem nopCompletes : Obligations.NopCompletes := fun s =>
  calc exec .nop s = .next (complete s) := rfl
    _ = .next (endsWith .none s) := rfl

end Sys2Proof.Machine

namespace Sys2Proof.Machine

/-! ### Commands that end with an error -/

/-- Settles O57: a command that had its effect shows no error code (R320), so by `exec_next` one that shows a code has
ended in `raiseError`, which writes the completion fields and no other (R324). -/
theorem errorsChangeNothing : Obligations.ErrorsChangeNothing := by
  intro i s t h herr
  obtain ⟨e, rfl⟩ | heffect := exec_next h
  · rfl
  · exact absurd (commandEffect_frame heffect).2 herr

end Sys2Proof.Machine

namespace Sys2Proof.Machine

/-! ### Capacity below the length of the buffer (R373) -/

/-- Settles O15: a buffer longer than `CAP` stays so with any number of bits to append, none too, so the clauses of O11,
O12 and O13 for a full buffer apply. -/
theorem loweredCapacityFailsAppends : Obligations.LoweredCapacityFailsAppends := by
  intro s hcap
  have full (n : Nat) : s.cap.toNat < s.bb.length + n := Nat.lt_add_right n hcap
  obtain ⟨-, bbappb⟩ := bbappbAppendsBytes
  obtain ⟨-, bbpad⟩ := bbpadPadsToCapacity
  refine ⟨fun n value hn => ?_, fun hfits => ?_, fun hsym hclass => ?_⟩
  · obtain ⟨-, dataTooLong, -⟩ := bbappAppendsBits n value s
    exact dataTooLong hn (full _)
  · obtain ⟨-, dataTooLong, -⟩ := bbappb s
    exact dataTooLong hfits (full _)
  · obtain ⟨-, -, dataTooLong, -⟩ := bbpad s
    exact dataTooLong hsym hclass hcap

/-! ### The state after power-on reset (R363) -/

/-- `GEN[0]` is 1 and `GEN[1..255]` are 0 (R363). -/
theorem genReset_toList : genReset.toList = 1#8 :: List.replicate 255 0#8 := by
  rw [genReset, Vector.toList_set, Vector.toList_replicate, List.replicate_succ, List.set_cons_zero]

/-- Settles O53: `SCORE` and `GEN` hold the lists of R363, and every other field is its value in `State.reset`. -/
theorem resetValues : Obligations.ResetValues := by
  have scores : State.reset.scores.toList = List.replicate 8 0#32 := Vector.toList_replicate
  have gen : State.reset.gen.toList = 1#8 :: List.replicate 255 0#8 := genReset_toList
  rw [Obligations.ResetValues, scores, gen]
  and_intros <;> rfl

end Sys2Proof.Machine
